-- ==== Sys2Proof/Word.lean ====
section
/-! DEFINITION. The words of CPF (spec 00_scope.md R11, 10_state.md R22, 30_encoding.md R70): every value is
an unsigned number of its stated width. -/

namespace Sys2Proof

/-- One byte: a register's contents, a packet field, a byte of a stream. -/
abbrev Byte := BitVec 8

/-- One host request of Format H (R70). -/
abbrev RequestWord := BitVec 16

/-- A register offset, 0x00-0x7F (R38, R75). -/
abbrev RegOffset := BitVec 7

/-- A timestamp in milliseconds: TIME and HB_LAST (R32, R34). -/
abbrev Stamp := BitVec 32

end Sys2Proof
end

