-- ==== Sys2Proof/Syntax.lean ====
section
/-! DEFINITION. The requests of CPF: one constructor per row of spec/opcode_table.json (30_encoding.md R76,
R78). -/

namespace Sys2Proof

/-- A host request, decoded. The seven ops and OP_RESERVED are the writes to offset 0x00 (R76); they take
their operands from state, not from the request (R75). -/
inductive Instr where
  /-- NOP, R162. -/
  | nop
  /-- CHKCALC, R103. -/
  | chkcalc
  /-- CHKVERIFY, R105. -/
  | chkverify
  /-- SEND, R120. -/
  | send
  /-- RECV, R130. -/
  | recv
  /-- HEARTBEAT, R140. -/
  | heartbeat
  /-- CLRFLAGS, R163. -/
  | clrflags
  /-- OP_RESERVED, R167: a write of the reserved op code `code` (0x07-0xFF) to OPCODE. -/
  | opReserved (code : Byte)
  /-- REG_WRITE, R161: `data` to the register at `addr`, which is not 0x00. -/
  | regWrite (addr : RegOffset) (data : Byte)
  /-- REG_READ, R160: the register at `addr`. The request's DATA is ignored (R71), so it is no operand
  (DEDUCED, safe, log 9). -/
  | regRead (addr : RegOffset)
  deriving DecidableEq, Repr

end Sys2Proof
end

