-- ==== Sys2Proof/WellFormed.lean ====
section
/-! DEFINITION. Which terms of `Instr` are requests that some word encodes (30_encoding.md R78). -/

namespace Sys2Proof

/-- A reserved code is 0x07-0xFF, since 0x00-0x06 are the op rows; a REG_WRITE is not to offset 0x00, since
OPCODE is taken by the op rows and OP_RESERVED (R78 and the table's notes). -/
def Instr.wellFormed : Instr → Bool
  | .nop => true
  | .chkcalc => true
  | .chkverify => true
  | .send => true
  | .recv => true
  | .heartbeat => true
  | .clrflags => true
  | .opReserved code => decide (0x07 ≤ code.toNat)
  | .regWrite addr _ => decide (addr.toNat ≠ 0x00)
  | .regRead _ => true

/-- `i` is a request some word encodes. -/
abbrev Instr.WellFormed (i : Instr) : Prop := i.wellFormed = true

end Sys2Proof
end

