-- ==== Sys2Proof/Decode.lean ====
section
/-! DEFINITION. Format H (30_encoding.md R70-R79): the request word, its decoder, its encoder, and the rows of
spec/opcode_table.json as R78 uses them. Every 16-bit word decodes (R79: no request word traps or is refused). -/

namespace Sys2Proof

/-- Bit 15 of a request: 0 = read, 1 = write (R70). -/
def reqWrite (h : RequestWord) : Bool := h.getLsbD 15

/-- Bits 14:8 of a request (R70). -/
def reqAddr (h : RequestWord) : RegOffset := h.extractLsb' 8 7

/-- Bits 7:0 of a request (R70). -/
def reqData (h : RequestWord) : Byte := h.extractLsb' 0 8

/-- The op a write of `code` to OPCODE starts (R76, R77). -/
def decodeOp (code : Byte) : Instr :=
  match code.toNat with
  | 0x00 => .nop
  | 0x01 => .chkcalc
  | 0x02 => .chkverify
  | 0x03 => .send
  | 0x04 => .recv
  | 0x05 => .heartbeat
  | 0x06 => .clrflags
  | _ => .opReserved code

/-- The decoder, after R78's pseudocode. -/
def decode (h : RequestWord) : Instr :=
  if reqWrite h = false then .regRead (reqAddr h)
  else if reqAddr h ≠ 0 then .regWrite (reqAddr h) (reqData h)
  else decodeOp (reqData h)

/-- The word `{W, ADDR, DATA}` of R70. -/
def requestWord (w : Bool) (addr : RegOffset) (data : Byte) : RequestWord :=
  BitVec.ofNat 16 (0x8000 * w.toNat + 0x100 * addr.toNat + data.toNat)

/-- The encoder: the request words of R76 and R88. A read is written with DATA 0x00 (R71). -/
def encode : Instr → RequestWord
  | .nop => 0x8000
  | .chkcalc => 0x8001
  | .chkverify => 0x8002
  | .send => 0x8003
  | .recv => 0x8004
  | .heartbeat => 0x8005
  | .clrflags => 0x8006
  | .opReserved code => requestWord true 0x00 code
  | .regWrite addr data => requestWord true addr data
  | .regRead addr => requestWord false addr 0x00

/-- One row of spec/opcode_table.json: its `match` and its `mask` (R78). -/
structure OpcodeRow where
  bits : RequestWord
  mask : RequestWord
  deriving DecidableEq, Repr

/-- A row matches when `(h & mask) = match` (R78). -/
def OpcodeRow.fits (r : OpcodeRow) (h : RequestWord) : Bool := (h &&& r.mask) == r.bits

/-- How specific a row is: the number of one bits of its mask (R78). -/
def OpcodeRow.specificity (r : OpcodeRow) : Nat := (List.range 16).countP (fun k => r.mask.getLsbD k)

/-- The row of each instruction. -/
def opcodeRow : Instr → OpcodeRow
  | .nop => ⟨0x8000#16, 0xFFFF#16⟩
  | .chkcalc => ⟨0x8001#16, 0xFFFF#16⟩
  | .chkverify => ⟨0x8002#16, 0xFFFF#16⟩
  | .send => ⟨0x8003#16, 0xFFFF#16⟩
  | .recv => ⟨0x8004#16, 0xFFFF#16⟩
  | .heartbeat => ⟨0x8005#16, 0xFFFF#16⟩
  | .clrflags => ⟨0x8006#16, 0xFFFF#16⟩
  | .opReserved _ => ⟨0x8000#16, 0xFF00#16⟩
  | .regWrite _ _ => ⟨0x8000#16, 0x8000#16⟩
  | .regRead _ => ⟨0x0000#16, 0x8000#16⟩

/-- The ten rows of spec/opcode_table.json, in its order. -/
def opcodeRows : List OpcodeRow :=
  [⟨0x8000#16, 0xFFFF#16⟩, ⟨0x8001#16, 0xFFFF#16⟩, ⟨0x8002#16, 0xFFFF#16⟩, ⟨0x8003#16, 0xFFFF#16⟩, ⟨0x8004#16, 0xFFFF#16⟩,
   ⟨0x8005#16, 0xFFFF#16⟩, ⟨0x8006#16, 0xFFFF#16⟩, ⟨0x8000#16, 0xFF00#16⟩, ⟨0x8000#16, 0x8000#16⟩, ⟨0x0000#16, 0x8000#16⟩]

/-- The request that opcode-table bits stand for: `nbits` low bits of `w`, every bit above them 0. -/
def requestOfTable (nbits w : Nat) : RequestWord := BitVec.ofNat 16 (w % 2 ^ nbits)

/-- The instruction the decoder reads from a table row's word. A request is one 16-bit word (R82), so more than
16 bits are no request (DESIGN CHOICE, safe, log 8). -/
def decodeTableWord (nbits w : Nat) : Option Instr :=
  if nbits ≤ 16 then some (decode (requestOfTable nbits w)) else none

end Sys2Proof
end

