-- ==== Sys2Proof/Config.lean ====
section
/-! DEFINITION. What the spec fixes for every CPF (R7, R8) and what an implementation fixes (R9). -/

namespace Sys2Proof

/-- PAYLOAD_MAX (R7): the bytes of the payload buffer and the largest legal length. -/
abbrev payloadMax : Nat := 32

/-- PACKET_SIZE (R8): command, length, 32 payload bytes, checksum, without padding. -/
abbrev packetSize : Nat := 35

/-- HB_PERIOD_MS (R7). -/
abbrev hbPeriodMs : Nat := 1000

/-- HB_LEN (R7): the payload bytes of a heartbeat. -/
abbrev hbLen : Byte := 0x04

/-- The three parameters of R9, which the implementation fixes for the lifetime of the block (R22).
A depth is held as the bytes it has beyond one packet, so that `Fin 221` is exactly the range
35 to 255 of R9 (DESIGN CHOICE, safe, log 5). -/
structure Config where
  /-- RX_DEPTH - 35. -/
  rxSpare : Fin 221
  /-- TX_DEPTH - 35. -/
  txSpare : Fin 221
  /-- HB_CMD_RESET: the reset value of register HB_CMD (R9, R33). -/
  hbCmdReset : Byte
  deriving DecidableEq, Repr, Inhabited

/-- RX_DEPTH (R9): the capacity of the receive FIFO in bytes. -/
def Config.rxDepth (c : Config) : Nat := c.rxSpare.val + 35

/-- TX_DEPTH (R9): the capacity of the transmit FIFO in bytes. -/
def Config.txDepth (c : Config) : Nat := c.txSpare.val + 35

/-- The parameters of the chip that `State.reset` is about. The spec leaves them OPEN (R9, D14, D17), so
they have no body: no proof can see a value (DESIGN CHOICE, safe, log 4). -/
opaque Config.chip : Config

end Sys2Proof
end

