-- ==== Sys2Proof/Machine/State.lean ====
section
/-! DEFINITION. The state of CPF (10_state.md R22, R23, R45), the steps the agents take (00_scope.md R14), and the
names of the outcomes. -/

namespace Sys2Proof.Machine

/-- A packet record (R23). A field holds any 8-bit value, lengths above 32 included. -/
structure Packet where
  cmd : Byte
  len : Byte
  pay : Vector Byte 32
  chk : Byte
  deriving DecidableEq, Repr

/-- The packet record after reset (R45). -/
def Packet.zero : Packet := ⟨0x00, 0x00, Vector.replicate 32 0x00, 0x00⟩

/-- The outcomes of an op that RESULT reports (30_encoding.md R80); their codes are in Machine/Flags.lean. -/
inductive ResultCode where
  | none
  | done
  | verifyMatch
  | verifyMismatch
  | verifyBadLength
  | rxNone
  | rxOk
  | rxBadChecksum
  | rxBadLength
  | txBusy
  | hbSent
  | hbNotDue
  | illegalOp
  deriving DecidableEq, Repr

/-- One step of one agent, or a reset (R14, R60). -/
inductive Input where
  /-- HOST issues a request word (R70). -/
  | host (h : RequestWord)
  /-- RXT delivers a received byte (R150). -/
  | deliver (b : Byte)
  /-- TXT takes a byte for the wire (R151). -/
  | emit
  /-- The reset step (R200). -/
  | reset
  deriving DecidableEq, Repr

/-- The machine. The fields from `txp` to `rxOverflow` are the state vector `S` of R22, all of it. The last four are
the model's own: the parameters (R9), the steps still to come (R60), and the two observables (R47). -/
structure State where
  /-- `S.TXP`, the transmit staging packet (R24). -/
  txp : Packet
  /-- `S.RXP`, the last valid received packet (R25). -/
  rxp : Packet
  /-- `S.RXP_VALID` (R26). -/
  rxpValid : Bool
  /-- `S.RXF`, the receive FIFO, oldest byte first (R27). -/
  rxf : List Byte
  /-- `S.TXF`, the transmit FIFO, oldest byte first (R28). -/
  txf : List Byte
  /-- `S.RESULT`, the code of the last op's outcome (R30). -/
  result : Byte
  /-- `S.RES_CHK`, the last checksum computed (R31). -/
  resChk : Byte
  /-- `S.TIME`, in milliseconds, written by the host (R32). -/
  time : Stamp
  /-- `S.HB_CMD`, the command byte of heartbeats (R33). -/
  hbCmd : Byte
  /-- `S.HB_LAST`, the timestamp of the last heartbeat sent (R34). -/
  hbLast : Stamp
  /-- `S.DISCARD_COUNT` (R35). -/
  discardCount : BitVec 16
  /-- `S.RX_OVERFLOW`, sticky (R36). -/
  rxOverflow : Bool
  /-- The parameters of R9. No step changes them (R22; DESIGN CHOICE, safe, log 4). -/
  cfg : Config
  /-- The steps still to come, the next one first (R60; DESIGN CHOICE, safe, log 1). -/
  inputs : List Input
  /-- The bytes TXT has put on the wire, earliest first (R47; DESIGN CHOICE, safe, log 6). -/
  wireOut : List Byte
  /-- The values REG_READs have returned, earliest first (R47; DESIGN CHOICE, safe, log 6). -/
  readOut : List Byte
  deriving DecidableEq, Repr

/-- CPF stops with no fault: "A model therefore has no fault outcome for CPF's own steps" (R180). Nothing raises one,
so there is no constructor (DEDUCED, safe, log 16). -/
inductive Fault where
  deriving DecidableEq, Repr

/-- Why a request has no meaning. -/
inductive Refusal where
  /-- Raised by an arm of `exec` whose instruction has no meaning yet; no arm does so now. Safe: the machine stops. -/
  | notModelled (mnemonic : String)
  deriving DecidableEq, Repr

/-- The state after a reset of a block with parameters `cfg` (R45, R200): every element of `S` at the value of R45's
table, nothing scheduled, nothing observed yet. -/
def State.resetWith (cfg : Config) : State where
  txp := Packet.zero
  rxp := Packet.zero
  rxpValid := false
  rxf := []
  txf := []
  result := 0x00
  resChk := 0x00
  time := 0x00000000
  hbCmd := cfg.hbCmdReset
  hbLast := 0x00000000
  discardCount := 0x0000
  rxOverflow := false
  cfg := cfg
  inputs := []
  wireOut := []
  readOut := []

/-- The machine right after reset, with the parameters of the chip left open (R9, R45). -/
def State.reset : State := State.resetWith Config.chip

end Sys2Proof.Machine
end

