-- ==== Sys2Proof/Machine/Ops.lean ====
section
/-! DEFINITION. The shared operations: the FIFO primitives of R12, the byte order of multi-byte values (R51, R52),
the serializer and the deserializer (R84, R85), and the fetch of the next step. CPF takes no exception and returns
from none (R180, R187, R188), so there is no exception entry here. -/

namespace Sys2Proof.Machine

/-- `level(F)` (R12). -/
abbrev level (f : List Byte) : Nat := f.length

/-- `push(F, b)`: `b` at the tail (R12). -/
abbrev push (f : List Byte) (b : Byte) : List Byte := f ++ [b]

/-- The bytes `pop(F, n)` returns: the first `n`, in order (R12). -/
abbrev popBytes (f : List Byte) (n : Nat) : List Byte := f.take n

/-- What `pop(F, n)` leaves in the FIFO (R12). -/
abbrev popRest (f : List Byte) (n : Nat) : List Byte := f.drop n

/-- `t[8k+7 : 8k]`, byte `k` of a 32-bit value, 0 the least significant (R11, R160). -/
def stampByte (t : Stamp) (k : Nat) : Byte := t.extractLsb' (8 * k) 8

/-- `t[8k+7 : 8k] <- v`: byte `k` replaced, the other bits unchanged (R161). -/
def setStampByte (t : Stamp) (k : Nat) (v : Byte) : Stamp :=
  (t &&& ~~~((0xFF : Stamp) <<< (8 * k))) ||| (v.setWidth 32 <<< (8 * k))

/-- `[t[31:24], t[23:16], t[15:8], t[7:0]]`, most significant byte first (R51, R87). -/
def stampBytesBE (t : Stamp) : List Byte := [stampByte t 3, stampByte t 2, stampByte t 1, stampByte t 0]

/-- `SER(P)` (R84). -/
def ser (p : Packet) : List Byte := p.cmd :: p.len :: (p.pay.toList ++ [p.chk])

/-- `DES(bs)` (R85), for 35 bytes. A byte the list lacks reads as 0x00; RECV calls it on 35 bytes only
(DESIGN CHOICE, safe, log 11). -/
def des (bs : List Byte) : Packet where
  cmd := bs.getD 0 0x00
  len := bs.getD 1 0x00
  pay := Vector.ofFn fun i => bs.getD (2 + i.val) 0x00
  chk := bs.getD 34 0x00

/-- The next step and the state in which it is performed: the schedule moves on by one (R21, R60). -/
def fetchInput (s : State) : Option (Input × State) :=
  match s.inputs with
  | [] => none
  | i :: rest => some (i, { s with inputs := rest })

end Sys2Proof.Machine
end

