-- ==== Sys2Proof/Machine/Flags.lean ====
section
/-! DEFINITION. The flag-like state (10_state.md R41): RESULT's codes and its one writer, and STATUS. -/

namespace Sys2Proof.Machine

/-- The code of an outcome (30_encoding.md R80). -/
def resultByte : ResultCode → Byte
  | .none => 0x00
  | .done => 0x01
  | .verifyMatch => 0x02
  | .verifyMismatch => 0x03
  | .verifyBadLength => 0x04
  | .rxNone => 0x05
  | .rxOk => 0x06
  | .rxBadChecksum => 0x07
  | .rxBadLength => 0x08
  | .txBusy => 0x09
  | .hbSent => 0x0A
  | .hbNotDue => 0x0B
  | .illegalOp => 0x0C

/-- `result(code)`: the code into RESULT, nothing else (R12). -/
def report (c : ResultCode) (s : State) : State := { s with result := resultByte c }

/-- STATUS bit 0: a RECV now would consume a packet (R29). -/
def rxAvail (s : State) : Bool := decide (level s.rxf ≥ packetSize)

/-- STATUS bit 1: a SEND now would succeed (R29). -/
def txSpace (s : State) : Bool := decide (s.cfg.txDepth - level s.txf ≥ packetSize)

/-- STATUS bit 2: every byte enqueued so far has left on the wire (R29). -/
def txEmpty (s : State) : Bool := decide (level s.txf = 0)

/-- STATUS, computed at the moment of the read: one bit each, bits 7:5 read as 0 (R29, R160). -/
def statusByte (s : State) : Byte :=
  BitVec.ofNat 8 ((rxAvail s).toNat + 2 * (txSpace s).toNat + 4 * (txEmpty s).toNat + 8 * s.rxOverflow.toNat
    + 16 * s.rxpValid.toNat)

end Sys2Proof.Machine
end

