-- ==== Sys2Proof/Machine/Checksum.lean ====
section
/-! DEFINITION. The checksum codec (40_checksum.md): XORFOLD, VALID, CHKCALC, CHKVERIFY. -/

namespace Sys2Proof.Machine

/-- `XORFOLD(cmd, n, p)` (R100): `cmd ^ n`, then the first `n` bytes of `p` in ascending order. The spec defines it
for `n <= 32`; every caller clamps or rejects first (DESIGN CHOICE, safe, log 10). -/
def xorFold (cmd n : Byte) (p : List Byte) : Byte := (p.take n.toNat).foldl (fun x b => x ^^^ b) (cmd ^^^ n)

/-- `min(len, 32)` (R103, R120). -/
def clampLen (len : Byte) : Byte := if len.toNat ≤ payloadMax then len else 0x20

/-- The checksum of a record's own fields, its length as it stands. -/
def packetFold (p : Packet) : Byte := xorFold p.cmd p.len p.pay.toList

/-- `VALID(P)` (R102). -/
def valid (p : Packet) : Bool := decide (p.len.toNat ≤ payloadMax) && packetFold p == p.chk

/-- CHKCALC (R103): the checksum SEND would put on the wire. -/
def execChkcalc (s : State) : Host.Outcome State Fault Refusal :=
  let n := clampLen s.txp.len
  .next (report .done { s with resChk := xorFold s.txp.cmd n s.txp.pay.toList })

/-- The effect of CHKVERIFY (R105). The length check comes first (R185). -/
def chkverify (s : State) : State :=
  if s.txp.len.toNat > payloadMax then report .verifyBadLength s
  else
    let c := xorFold s.txp.cmd s.txp.len s.txp.pay.toList
    let s' := { s with resChk := c }
    if c = s.txp.chk then report .verifyMatch s' else report .verifyMismatch s'

/-- CHKVERIFY (R105). -/
def execChkverify (s : State) : Host.Outcome State Fault Refusal := .next (chkverify s)

end Sys2Proof.Machine
end

