-- ==== Sys2Proof/Machine/Framer.lean ====
section
/-! DEFINITION. The packet framer (41_framer.md): SEND, RECV, HEARTBEAT. -/

namespace Sys2Proof.Machine

/-- `TX_DEPTH - level(S.TXF) < 35`: no room for a packet (R120, R140). -/
def txBusy (s : State) : Bool := decide (s.cfg.txDepth - level s.txf < packetSize)

/-- The packet SEND builds from the staging packet: the length clamped at 32, payload positions at or beyond it 0x00,
the checksum computed (R120). -/
def sendPacket (t : Packet) : Packet :=
  let n := clampLen t.len
  let pay := Vector.ofFn fun i : Fin 32 => if i.val < n.toNat then t.pay[i.val] else 0x00
  { cmd := t.cmd, len := n, pay := pay, chk := xorFold t.cmd n pay.toList }

/-- The heartbeat packet at timestamp `t` with command byte `c` (R87, R140). -/
def heartbeatPacket (c : Byte) (t : Stamp) : Packet :=
  let pay := Vector.ofFn fun i : Fin 32 => (stampBytesBE t).getD i.val 0x00
  { cmd := c, len := hbLen, pay := pay, chk := xorFold c hbLen pay.toList }

/-- `S.TXF <- S.TXF ++ SER(P)` and `S.RES_CHK <- P.chk`: 35 bytes, one step (R120, R140, R61). -/
def enqueue (p : Packet) (s : State) : State := { s with txf := s.txf ++ ser p, resChk := p.chk }

/-- The effect of SEND (R120): all or nothing. -/
def send (s : State) : State :=
  if txBusy s then report .txBusy s else report .done (enqueue (sendPacket s.txp) s)

/-- SEND (R120). -/
def execSend (s : State) : Host.Outcome State Fault Refusal := .next (send s)

/-- `S.DISCARD_COUNT <- (S.DISCARD_COUNT + 1) mod 2^16` (R130, R35). -/
def countDiscard (s : State) : State := { s with discardCount := s.discardCount + 1 }

/-- `S.RXP <- P; S.RXP_VALID <- 1`: all 35 bytes, the raw payload kept (R130, R134). -/
def latch (p : Packet) (s : State) : State := { s with rxp := p, rxpValid := true }

/-- The effect of RECV (R130): the 35 oldest bytes are one packet, latched or discarded; no resynchronization (R133). The
length check comes before the checksum (R185). -/
def recv (s : State) : State :=
  if level s.rxf < packetSize then report .rxNone s
  else
    let p := des (popBytes s.rxf packetSize)
    let s' := { s with rxf := popRest s.rxf packetSize }
    if p.len.toNat > payloadMax then report .rxBadLength (countDiscard s')
    else if xorFold p.cmd p.len p.pay.toList ≠ p.chk then report .rxBadChecksum (countDiscard s')
    else report .rxOk (latch p s')

/-- RECV (R130). -/
def execRecv (s : State) : Host.Outcome State Fault Refusal := .next (recv s)

/-- `(S.TIME - S.HB_LAST) mod 2^32`, unsigned (R140). -/
def hbElapsed (s : State) : Nat := (s.time - s.hbLast).toNat

/-- The effect of HEARTBEAT (R140). The due test comes before the space test (R185); TX_BUSY leaves HB_LAST, so the
heartbeat stays due (D16). -/
def heartbeat (s : State) : State :=
  if hbElapsed s < hbPeriodMs then report .hbNotDue s
  else if txBusy s then report .txBusy s
  else report .hbSent { enqueue (heartbeatPacket s.hbCmd s.time) s with hbLast := s.time }

/-- HEARTBEAT (R140). -/
def execHeartbeat (s : State) : Host.Outcome State Fault Refusal := .next (heartbeat s)

end Sys2Proof.Machine
end

