-- ==== Sys2Proof/Machine/Operands.lean ====
section
/-! DEFINITION. The register map (10_state.md R38): which register an offset names, and the one read and the one write
of a register (42_host_access.md R160, R161). -/

namespace Sys2Proof.Machine

/-- The registers of R38. Byte 3 of TIME and HB_LAST is the most significant; it has the lowest offset (R52). -/
inductive Reg where
  | opcode
  | status
  | result
  | resChk
  | txpCmd
  | txpLen
  | txpChk
  | hbCmd
  | time (k : Fin 4)
  | hbLast (k : Fin 4)
  | discardHi
  | discardLo
  | rxLevel
  | txLevel
  | rxpCmd
  | rxpLen
  | rxpChk
  | txpData (i : Fin 32)
  | rxpPayload (i : Fin 32)
  deriving DecidableEq, Repr

/-- The register at an offset, none at a reserved one (R38, R40). -/
def regAt (off : RegOffset) : Option Reg :=
  match off.toNat with
  | 0x00 => some .opcode
  | 0x01 => some .status
  | 0x02 => some .result
  | 0x03 => some .resChk
  | 0x04 => some .txpCmd
  | 0x05 => some .txpLen
  | 0x06 => some .txpChk
  | 0x07 => some .hbCmd
  | 0x08 => some (.time 3)
  | 0x09 => some (.time 2)
  | 0x0A => some (.time 1)
  | 0x0B => some (.time 0)
  | 0x0C => some (.hbLast 3)
  | 0x0D => some (.hbLast 2)
  | 0x0E => some (.hbLast 1)
  | 0x0F => some (.hbLast 0)
  | 0x10 => some .discardHi
  | 0x11 => some .discardLo
  | 0x12 => some .rxLevel
  | 0x13 => some .txLevel
  | 0x14 => some .rxpCmd
  | 0x15 => some .rxpLen
  | 0x16 => some .rxpChk
  | n =>
    if h : 0x20 ≤ n ∧ n < 0x40 then some (.txpData ⟨n - 0x20, by omega⟩)
    else if h : 0x40 ≤ n ∧ n < 0x60 then some (.rxpPayload ⟨n - 0x40, by omega⟩)
    else none

/-- The value of a register (R160). OPCODE is write-only and reads 0x00 (R37). A level fits 8 bits, since no FIFO
is deeper than 255 (R39; DEDUCED, safe, log 17). -/
def readReg (r : Reg) (s : State) : Byte :=
  match r with
  | .opcode => 0x00
  | .status => statusByte s
  | .result => s.result
  | .resChk => s.resChk
  | .txpCmd => s.txp.cmd
  | .txpLen => s.txp.len
  | .txpChk => s.txp.chk
  | .hbCmd => s.hbCmd
  | .time k => stampByte s.time k.val
  | .hbLast k => stampByte s.hbLast k.val
  | .discardHi => s.discardCount.extractLsb' 8 8
  | .discardLo => s.discardCount.extractLsb' 0 8
  | .rxLevel => BitVec.ofNat 8 (level s.rxf)
  | .txLevel => BitVec.ofNat 8 (level s.txf)
  | .rxpCmd => s.rxp.cmd
  | .rxpLen => s.rxp.len
  | .rxpChk => s.rxp.chk
  | .txpData i => s.txp.pay[i.val]
  | .rxpPayload i => s.rxp.pay[i.val]

/-- The write of a register (R161): the read-write registers take the byte, a write to any other has no effect.
Starting an op by a write to OPCODE is not this function's (R76): such a request is no REG_WRITE. -/
def writeReg (r : Reg) (v : Byte) (s : State) : State :=
  match r with
  | .txpCmd => { s with txp := { s.txp with cmd := v } }
  | .txpLen => { s with txp := { s.txp with len := v } }
  | .txpChk => { s with txp := { s.txp with chk := v } }
  | .hbCmd => { s with hbCmd := v }
  | .time k => { s with time := setStampByte s.time k.val v }
  | .txpData i => { s with txp := { s.txp with pay := s.txp.pay.set i.val v } }
  | .opcode => s
  | .status => s
  | .result => s
  | .resChk => s
  | .hbLast _ => s
  | .discardHi => s
  | .discardLo => s
  | .rxLevel => s
  | .txLevel => s
  | .rxpCmd => s
  | .rxpLen => s
  | .rxpChk => s
  | .rxpPayload _ => s

/-- `RegRead(off)` (R160): a reserved offset reads 0x00 (R40). -/
def regRead (off : RegOffset) (s : State) : Byte :=
  match regAt off with
  | none => 0x00
  | some r => readReg r s

/-- `RegWrite(off, v)` (R161): a write to a reserved offset is ignored (R40). -/
def regWrite (off : RegOffset) (v : Byte) (s : State) : State :=
  match regAt off with
  | none => s
  | some r => writeReg r v s

end Sys2Proof.Machine
end

