-- ==== Sys2Proof/Machine/HostAccess.lean ====
section
/-! DEFINITION. Host register access and the control ops (42_host_access.md): REG_READ, REG_WRITE, NOP, CLRFLAGS,
OP_RESERVED. -/

namespace Sys2Proof.Machine

/-- REG_READ (R160): the register's value is returned to the host (R71). No other effect (R56). -/
def execRegRead (addr : RegOffset) (s : State) : Host.Outcome State Fault Refusal :=
  .next { s with readOut := s.readOut ++ [regRead addr s] }

/-- REG_WRITE (R161). RESULT is not changed. -/
def execRegWrite (addr : RegOffset) (data : Byte) (s : State) : Host.Outcome State Fault Refusal :=
  .next (regWrite addr data s)

/-- NOP (R162): nothing changes, RESULT included. -/
def execNop (s : State) : Host.Outcome State Fault Refusal := .next s

/-- CLRFLAGS (R163). -/
def execClrflags (s : State) : Host.Outcome State Fault Refusal :=
  .next (report .done { s with rxOverflow := false, discardCount := 0x0000 })

/-- OP_RESERVED (R167): every reserved code behaves the same, so `code` is not used. -/
def execOpReserved (_code : Byte) (s : State) : Host.Outcome State Fault Refusal := .next (report .illegalOp s)

end Sys2Proof.Machine
end

