-- ==== Sys2Proof/Machine/Dispatch.lean ====
section
/-! DEFINITION. One arm per request (opcode_table.json), each a call of its meaning. -/

namespace Sys2Proof.Machine

/-- The effect of a host request (R21, R210): one atomic step. -/
def exec (i : Instr) (s : State) : Host.Outcome State Fault Refusal :=
  match i with
  | .nop => Sys2Proof.Machine.execNop s
  | .chkcalc => Sys2Proof.Machine.execChkcalc s
  | .chkverify => Sys2Proof.Machine.execChkverify s
  | .send => Sys2Proof.Machine.execSend s
  | .recv => Sys2Proof.Machine.execRecv s
  | .heartbeat => Sys2Proof.Machine.execHeartbeat s
  | .clrflags => Sys2Proof.Machine.execClrflags s
  | .opReserved code => Sys2Proof.Machine.execOpReserved code s
  | .regWrite addr data => Sys2Proof.Machine.execRegWrite addr data s
  | .regRead addr => Sys2Proof.Machine.execRegRead addr s

end Sys2Proof.Machine
end

