-- ==== Sys2Proof/Machine/Transport.lean ====
section
/-! DEFINITION. The steps that are not host requests: RXT deliver and TXT emit (41_framer.md R150, R151), and reset
(70_reset_and_hazards.md R200). -/

namespace Sys2Proof.Machine

/-- RXT `deliver(b)` (R150): the byte is appended, or lost with the sticky flag set when the FIFO is full. -/
def deliver (b : Byte) (s : State) : State :=
  if level s.rxf < s.cfg.rxDepth then { s with rxf := push s.rxf b } else { s with rxOverflow := true }

/-- TXT `emit()` (R151): one byte from the head of the FIFO onto the wire. With the FIFO empty TXT has no step and the wire
is idle, so a scheduled emit changes nothing (DESIGN CHOICE, safe, log 3). -/
def emit (s : State) : State :=
  if level s.txf > 0 then
    { s with txf := popRest s.txf 1, wireOut := s.wireOut ++ popBytes s.txf 1 }
  else s

/-- The reset step (R200): every element of `S` at its reset value, all at once. The parameters stay (R22), and so do the
schedule and what the outside world has already seen (DESIGN CHOICE, safe, log 6). -/
def resetStep (s : State) : State :=
  { State.resetWith s.cfg with inputs := s.inputs, wireOut := s.wireOut, readOut := s.readOut }

end Sys2Proof.Machine
end

