-- ==== Sys2Proof/Machine/Step.lean ====
section
/-! DEFINITION. One step of the total order of R60: a host request, a byte in, a byte out, or a reset. -/

namespace Sys2Proof.Machine

/-- The next step of the schedule is performed whole (R60). With nothing scheduled no agent steps, and the machine holds its
state (R194; DESIGN CHOICE, safe, log 2). -/
def step (s : State) : Host.Outcome State Fault Refusal :=
  match fetchInput s with
  | none => .next s
  | some (.host h, s') => exec (decode h) s'
  | some (.deliver b, s') => .next (deliver b s')
  | some (.emit, s') => .next (emit s')
  | some (.reset, s') => .next (resetStep s')

/-- `s` with the table word `w` as the host's next request, before everything else scheduled (log 7). -/
def State.withFetchWord (s : State) (nbits w : Nat) : State :=
  { s with inputs := .host (requestOfTable nbits w) :: s.inputs }

end Sys2Proof.Machine
end

