-- ==== Sys2Proof/Machine/Assembler.lean ====
section
/-! DEFINITION. The assembly language (30_encoding.md R88) and its pseudo-instructions (R89): notation for host requests. No
step of the machine reads it. -/

namespace Sys2Proof.Machine

/-- One line of assembly, its register operands resolved to offsets (R88, R89). -/
inductive AsmLine where
  | rd (reg : RegOffset)
  | wr (reg : RegOffset) (imm : Byte)
  | nop
  | chkcalc
  | chkverify
  | send
  | recv
  | hb
  | clrflags
  | opr (imm : Byte)
  | wr32Time (imm : Stamp)
  | rd32Time
  | rd32HbLast
  | rd16Discard
  | ldtxp (cmd len : Byte) (data : List Byte)
  | poll (reg : RegOffset) (mask val : Byte)
  deriving DecidableEq, Repr

/-- The word of `rd REG` (R88). -/
def rdWord (reg : RegOffset) : RequestWord := requestWord false reg 0x00

/-- The word of `wr REG, IMM8` (R88). `wr OPCODE, IMM8` gives the word of the op mnemonic. -/
def wrWord (reg : RegOffset) (imm : Byte) : RequestWord := requestWord true reg imm

/-- `wr TXP_DATA+0, b0; ...; wr TXP_DATA+k-1, bk-1`, from position `i` on (R89). -/
def wrDataWords : Nat → List Byte → List RequestWord
  | _, [] => []
  | i, b :: bs => wrWord (BitVec.ofNat 7 (0x20 + i)) b :: wrDataWords (i + 1) bs

/-- The request words of a line (R88, R89), none where the form does not allow the operand: `opr` takes a code of 0x07 or
more, `ldtxp` at most 32 data bytes. `poll` is a loop of the host with no bound: it issues `rd REG` once and then
`repeats` more times (DESIGN CHOICE, safe, log 18). -/
def assemble (repeats : Nat) : AsmLine → Option (List RequestWord)
  | .rd reg => some [rdWord reg]
  | .wr reg imm => some [wrWord reg imm]
  | .nop => some [0x8000]
  | .chkcalc => some [0x8001]
  | .chkverify => some [0x8002]
  | .send => some [0x8003]
  | .recv => some [0x8004]
  | .hb => some [0x8005]
  | .clrflags => some [0x8006]
  | .opr imm => if 0x07 ≤ imm.toNat then some [0x8000 + imm.setWidth 16] else none
  | .wr32Time imm =>
    some [wrWord 0x08 (stampByte imm 3), wrWord 0x09 (stampByte imm 2), wrWord 0x0A (stampByte imm 1),
      wrWord 0x0B (stampByte imm 0)]
  | .rd32Time => some [rdWord 0x08, rdWord 0x09, rdWord 0x0A, rdWord 0x0B]
  | .rd32HbLast => some [rdWord 0x0C, rdWord 0x0D, rdWord 0x0E, rdWord 0x0F]
  | .rd16Discard => some [rdWord 0x10, rdWord 0x11]
  | .ldtxp cmd len data =>
    if data.length ≤ payloadMax then some (wrWord 0x04 cmd :: wrWord 0x05 len :: wrDataWords 0 data) else none
  | .poll reg _ _ => some (List.replicate (repeats + 1) (rdWord reg))

/-- The value of `rd32` and `rd16`: the bytes read, the first the most significant (R89, R52). -/
def valueOfReads (bs : List Byte) : Nat := bs.foldl (fun v b => 256 * v + b.toNat) 0

/-- `poll` goes on until `(value & MASK) = VAL`: the answers of a finished poll (R89). -/
def pollEnds (mask val : Byte) : List Byte → Bool
  | [] => false
  | [v] => v &&& mask == val
  | v :: vs => !(v &&& mask == val) && pollEnds mask val vs

/-- The line a disassembler prints (R88): the op mnemonic, or `opr` for a reserved code. -/
def disassemble : Instr → AsmLine
  | .nop => .nop
  | .chkcalc => .chkcalc
  | .chkverify => .chkverify
  | .send => .send
  | .recv => .recv
  | .heartbeat => .hb
  | .clrflags => .clrflags
  | .opReserved code => .opr code
  | .regWrite addr data => .wr addr data
  | .regRead addr => .rd addr

/-- The register names of R38 that stand for one register. -/
def regNames : List (String × RegOffset) :=
  [("OPCODE", 0x00), ("STATUS", 0x01), ("RESULT", 0x02), ("RES_CHK", 0x03), ("TXP_CMD", 0x04), ("TXP_LEN", 0x05),
   ("TXP_CHK", 0x06), ("HB_CMD", 0x07), ("TIME3", 0x08), ("TIME2", 0x09), ("TIME1", 0x0A), ("TIME0", 0x0B),
   ("HB_LAST3", 0x0C), ("HB_LAST2", 0x0D), ("HB_LAST1", 0x0E), ("HB_LAST0", 0x0F)]
  ++ [("DISCARD_HI", 0x10), ("DISCARD_LO", 0x11), ("RX_LEVEL", 0x12), ("TX_LEVEL", 0x13), ("RXP_CMD", 0x14),
   ("RXP_LEN", 0x15), ("RXP_CHK", 0x16)]

/-- The register windows: `TXP_DATA+i` and `RXP_PAYLOAD+i` name element `i` (R88). -/
def windowNames : List (String × Nat) := [("TXP_DATA+", 0x20), ("RXP_PAYLOAD+", 0x40)]

/-- White space inside a line. -/
def isBlank (c : Char) : Bool := c == ' ' || c == '\t' || c == '\r'

/-- A word without the white space around it. -/
def trimBlanks (cs : List Char) : List Char := ((cs.dropWhile isBlank).reverse.dropWhile isBlank).reverse

/-- The parts of a text between separators. -/
def splitAtChar (sep : Char) : List Char → List (List Char)
  | [] => [[]]
  | c :: cs =>
    match splitAtChar sep cs with
    | [] => [[c]]
    | w :: ws => if c == sep then [] :: w :: ws else (c :: w) :: ws

/-- The value of a digit, decimal or hexadecimal. -/
def digitValue (c : Char) : Option Nat :=
  if '0' ≤ c ∧ c ≤ '9' then some (c.toNat - 48)
  else if 'a' ≤ c ∧ c ≤ 'f' then some (c.toNat - 87)
  else if 'A' ≤ c ∧ c ≤ 'F' then some (c.toNat - 55)
  else none

/-- Digits in a base, on top of what has been read. -/
def readDigits (base : Nat) : Nat → List Char → Option Nat
  | acc, [] => some acc
  | acc, c :: cs =>
    match digitValue c with
    | some d => if d < base then readDigits base (base * acc + d) cs else none
    | none => none

/-- A number: hexadecimal `0x..` or decimal (R88). -/
def readNumber : List Char → Option Nat
  | [] => none
  | '0' :: 'x' :: c :: cs => readDigits 16 0 (c :: cs)
  | c :: cs => readDigits 10 0 (c :: cs)

/-- A number below `bound`. -/
def readBelow (bound : Nat) (cs : List Char) : Option Nat :=
  match readNumber cs with
  | some n => if n < bound then some n else none
  | none => none

/-- IMM8. -/
def readByte (cs : List Char) : Option Byte := (readBelow 256 cs).map (BitVec.ofNat 8)

/-- The part of a text after a leading word. -/
def dropLeading : List Char → List Char → Option (List Char)
  | [], cs => some cs
  | _ :: _, [] => none
  | w :: ws, c :: cs => if w == c then dropLeading ws cs else none

/-- An element of a register window. -/
def readWindow (cs : List Char) : List (String × Nat) → Option RegOffset
  | [] => none
  | (name, base) :: rest =>
    match dropLeading name.toList cs with
    | some ds => (readBelow 32 ds).map fun i => BitVec.ofNat 7 (base + i)
    | none => readWindow cs rest

/-- A register operand: a name of R38, an element of a window, or a number 0x00-0x7F (R88). -/
def readRegOperand (cs : List Char) : Option RegOffset :=
  match regNames.find? (fun p => p.1.toList == cs) with
  | some p => some p.2
  | none =>
    match readWindow cs windowNames with
    | some off => some off
    | none => (readBelow 128 cs).map (BitVec.ofNat 7)

/-- A line of a mnemonic and its operands (R88, R89), none where no form fits. -/
def readForm (mnemonic : List Char) (ops : List (List Char)) : Option AsmLine :=
  if mnemonic == "nop".toList then (if ops.isEmpty then some .nop else none)
  else if mnemonic == "chkcalc".toList then (if ops.isEmpty then some .chkcalc else none)
  else if mnemonic == "chkverify".toList then (if ops.isEmpty then some .chkverify else none)
  else if mnemonic == "send".toList then (if ops.isEmpty then some .send else none)
  else if mnemonic == "recv".toList then (if ops.isEmpty then some .recv else none)
  else if mnemonic == "hb".toList then (if ops.isEmpty then some .hb else none)
  else if mnemonic == "clrflags".toList then (if ops.isEmpty then some .clrflags else none)
  else if mnemonic == "opr".toList then
    match ops with
    | [c] => (readByte c).map .opr
    | _ => none
  else if mnemonic == "rd".toList then
    match ops with
    | [r] => (readRegOperand r).map .rd
    | _ => none
  else if mnemonic == "wr".toList then
    match ops with
    | [r, v] => (readRegOperand r).bind fun reg => (readByte v).map (.wr reg)
    | _ => none
  else if mnemonic == "wr32".toList then
    match ops with
    | [r, v] => if r == "TIME".toList then (readBelow (2 ^ 32) v).map fun n => .wr32Time (BitVec.ofNat 32 n) else none
    | _ => none
  else if mnemonic == "rd32".toList then
    match ops with
    | [r] => if r == "TIME".toList then some .rd32Time else if r == "HB_LAST".toList then some .rd32HbLast else none
    | _ => none
  else if mnemonic == "rd16".toList then
    match ops with
    | [r] => if r == "DISCARD".toList then some .rd16Discard else none
    | _ => none
  else if mnemonic == "ldtxp".toList then
    match ops with
    | c :: l :: ds => (readByte c).bind fun cmd => (readByte l).bind fun len => (ds.mapM readByte).map (.ldtxp cmd len)
    | _ => none
  else if mnemonic == "poll".toList then
    match ops with
    | [r, m, v] => (readRegOperand r).bind fun reg => (readByte m).bind fun mask => (readByte v).map (.poll reg mask)
    | _ => none
  else none

/-- One line of source: the comment from `;` to the end of the line dropped, then a mnemonic and operands separated by commas
(R88). A line with nothing on it is no request; `none` is a line no form fits (DESIGN CHOICE, safe, log 18). -/
def parseLine (cs : List Char) : Option (List AsmLine) :=
  let body := trimBlanks (cs.takeWhile (fun c => c != ';'))
  if body.isEmpty then some []
  else
    let rest := trimBlanks (body.dropWhile (fun c => !isBlank c))
    let ops := if rest.isEmpty then [] else (splitAtChar ',' rest).map trimBlanks
    (readForm (body.takeWhile (fun c => !isBlank c)) ops).map fun l => [l]

/-- The request words of a source text, one request a line (R88); `poll` as in `assemble`. -/
def assembleText (repeats : Nat) (source : String) : Option (List RequestWord) :=
  ((splitAtChar '\n' source.toList).mapM parseLine).bind fun lines =>
    (lines.flatten.mapM (assemble repeats)).map List.flatten

/-- A digit below 16 in hexadecimal. -/
def hexDigit (n : Nat) : Char := if n < 10 then Char.ofNat (48 + n) else Char.ofNat (55 + n)

/-- A byte as `0x..` with two upper-case digits: R88 does not say how a disassembler prints a number (DESIGN CHOICE, safe, log 21). -/
def hexByte (b : Byte) : List Char := ['0', 'x', hexDigit (b.toNat / 16), hexDigit (b.toNat % 16)]

/-- A register operand as a disassembler prints it: its name where R38 gives one, an element of a window by its index, else its number.
R88 fixes only the mnemonic it prints (DESIGN CHOICE, safe, log 21). -/
def regText (off : RegOffset) : List Char :=
  match regNames.find? (fun p => p.2 == off) with
  | some p => p.1.toList
  | none =>
    if 0x20 ≤ off.toNat ∧ off.toNat < 0x40 then "TXP_DATA+".toList ++ hexByte (BitVec.ofNat 8 (off.toNat - 0x20))
    else if 0x40 ≤ off.toNat ∧ off.toNat < 0x60 then
      "RXP_PAYLOAD+".toList ++ hexByte (BitVec.ofNat 8 (off.toNat - 0x40))
    else hexByte (off.setWidth 8)

/-- The text a disassembler prints for a request: the mnemonic of R88, then the operands (DESIGN CHOICE, safe, log 21). -/
def disassembleText : Instr → List Char
  | .nop => "nop".toList
  | .chkcalc => "chkcalc".toList
  | .chkverify => "chkverify".toList
  | .send => "send".toList
  | .recv => "recv".toList
  | .heartbeat => "hb".toList
  | .clrflags => "clrflags".toList
  | .opReserved code => "opr ".toList ++ hexByte code
  | .regWrite addr data => "wr ".toList ++ regText addr ++ ", ".toList ++ hexByte data
  | .regRead addr => "rd ".toList ++ regText addr

end Sys2Proof.Machine
end

