-- ==== Sys2Proof/Safety.lean ====
section
/-! DEFINITION. What a safe run is, in the terms the statements use. -/

namespace Sys2Proof.Machine

/-- Neither FIFO holds more than its depth (R22, R27, R28). -/
abbrev State.FifosFit (s : State) : Prop :=
  s.rxf.length ≤ s.cfg.rxDepth ∧ s.txf.length ≤ s.cfg.txDepth

/-- RESULT holds a code of R80: "Codes 0x0D-0xFF are never written". -/
abbrev State.ResultLegal (s : State) : Prop := s.result.toNat ≤ 0x0C

/-- RXP holds a valid packet once RXP_VALID is 1, and its reset value before (R25, R26, R131). -/
abbrev State.RxpConsistent (s : State) : Prop :=
  if s.rxpValid then valid s.rxp = true else s.rxp = Packet.zero

/-- The invariant of CPF: it holds at reset and every step keeps it. -/
abbrev State.Inv (s : State) : Prop := s.FifosFit ∧ s.ResultLegal ∧ s.RxpConsistent

/-- The outcome is a next state: CPF neither faults nor refuses (R180). -/
def Continues (o : Host.Outcome State Fault Refusal) : Prop := ∃ t, o = .next t

/-- RESULT after a request, by the "written by" column of R80; NOP, reads and writes leave it (R30, R71, R161, R162). -/
def ReportsOwnCode (i : Instr) (s t : State) : Prop :=
  match i with
  | .nop => t.result = s.result
  | .chkcalc => t.result = 0x01
  | .chkverify => t.result = 0x02 ∨ t.result = 0x03 ∨ t.result = 0x04
  | .send => t.result = 0x01 ∨ t.result = 0x09
  | .recv => t.result = 0x05 ∨ t.result = 0x06 ∨ t.result = 0x07 ∨ t.result = 0x08
  | .heartbeat => t.result = 0x09 ∨ t.result = 0x0A ∨ t.result = 0x0B
  | .clrflags => t.result = 0x01
  | .opReserved _ => t.result = 0x0C
  | .regWrite _ _ => t.result = s.result
  | .regRead _ => t.result = s.result

/-- The step from `s` to `t` is a HEARTBEAT that ends in HB_SENT (R140). -/
def SendsHeartbeat (s t : State) : Prop :=
  s.inputs.head? = some (.host 0x8005) ∧ step s = .next t ∧ t.result = 0x0A

/-- A run of any steps of any agents with no reset in it and no HEARTBEAT that ends in HB_SENT (R141). -/
inductive QuietRun : State → State → Prop where
  | here (s : State) : QuietRun s s
  | more (s t u : State) : QuietRun s t → step t = .next u → t.inputs.head? ≠ some .reset →
      ¬ SendsHeartbeat t u → QuietRun s u

/-- The offsets of the read-write registers (R38): TXP_CMD, TXP_LEN, TXP_CHK, HB_CMD, the four TIME bytes, TXP_DATA. -/
abbrev WritableOffset (off : RegOffset) : Prop :=
  (0x04 ≤ off.toNat ∧ off.toNat ≤ 0x0B) ∨ (0x20 ≤ off.toNat ∧ off.toNat ≤ 0x3F)

/-- The reserved offsets (R40). -/
abbrev ReservedOffset (off : RegOffset) : Prop :=
  (0x17 ≤ off.toNat ∧ off.toNat ≤ 0x1F) ∨ (0x60 ≤ off.toNat ∧ off.toNat ≤ 0x7F)

end Sys2Proof.Machine
end

