-- ==== Sys2Proof/Certificates/Slice0/Obligations.lean ====
section
/-! DEFINITION. The statements for the provers. Each docstring names the rule of spec/ it formalises. -/

open Sys2Proof Sys2Proof.Machine

/-! ### Parameters, reset -/

/-- R9: each depth is in 35..255, and every triple of legal parameter values is the configuration of some CPF. -/
def Obligations.ParametersRangeExactlyAsStated : Prop :=
  (∀ c : Config, 35 ≤ c.rxDepth ∧ c.rxDepth ≤ 255 ∧ 35 ≤ c.txDepth ∧ c.txDepth ≤ 255) ∧
  ∀ (rx tx : Nat) (hb : Byte), 35 ≤ rx → rx ≤ 255 → 35 ≤ tx → tx ≤ 255 →
    ∃ c : Config, c.rxDepth = rx ∧ c.txDepth = tx ∧ c.hbCmdReset = hb

/-- R45: every element of the state at its reset value. -/
def Obligations.ResetStateIsTheResetTable : Prop :=
  (State.reset.txp.cmd = 0x00 ∧ State.reset.txp.len = 0x00 ∧ State.reset.txp.chk = 0x00) ∧
  (State.reset.rxp.cmd = 0x00 ∧ State.reset.rxp.len = 0x00 ∧ State.reset.rxp.chk = 0x00) ∧
  (∀ (i : Nat) (h : i < 32), State.reset.txp.pay[i] = 0x00 ∧ State.reset.rxp.pay[i] = 0x00) ∧
  State.reset.rxpValid = false ∧ State.reset.rxf = [] ∧ State.reset.txf = [] ∧
  State.reset.result = 0x00 ∧ State.reset.resChk = 0x00 ∧ State.reset.time = 0x00000000 ∧
  State.reset.hbCmd = State.reset.cfg.hbCmdReset ∧ State.reset.hbLast = 0x00000000 ∧
  State.reset.discardCount = 0x0000 ∧ State.reset.rxOverflow = false

/-- R200 (its first two sentences and list): a reset step puts every element at the value of R45, from any state; the
parameters stay (R22). That the schedule and the observed bytes stay is the model's choice (log 6). -/
def Obligations.ResetStepRestoresEveryElement : Prop :=
  ∀ (s : State) (rest : List Input), s.inputs = .reset :: rest → ∃ t, step s = .next t ∧
    t.rxf = [] ∧ t.txf = [] ∧
    (t.txp.cmd = 0x00 ∧ t.txp.len = 0x00 ∧ t.txp.chk = 0x00) ∧ (t.rxp.cmd = 0x00 ∧ t.rxp.len = 0x00 ∧ t.rxp.chk = 0x00) ∧
    (∀ (i : Nat) (h : i < 32), t.txp.pay[i] = 0x00 ∧ t.rxp.pay[i] = 0x00) ∧
    t.result = 0x00 ∧ t.resChk = 0x00 ∧ t.time = 0x00000000 ∧ t.hbLast = 0x00000000 ∧ t.discardCount = 0x0000 ∧
    t.rxOverflow = false ∧ t.rxpValid = false ∧ t.hbCmd = s.cfg.hbCmdReset ∧
    t.cfg = s.cfg ∧ t.inputs = rest ∧ t.wireOut = s.wireOut ∧ t.readOut = s.readOut

/-- R29, R38, R45: what the host reads right after a reset, for every value of the parameters. -/
def Obligations.EveryOffsetReadAfterReset : Prop :=
  ∀ (c : Config) (off : RegOffset), exec (.regRead off) (State.resetWith c) =
    .next { State.resetWith c with readOut :=
      [if off.toNat = 0x01 then 0x06 else if off.toNat = 0x07 then c.hbCmdReset else 0x00] }

/-! ### The step -/

/-- R21, R60, R210: a step whose next input is a host request is that request's effect, and the schedule has moved on. -/
def Obligations.StepRunsTheDecodedRequest : Prop :=
  ∀ (s : State) (h : RequestWord) (rest : List Input) (i : Instr), s.inputs = .host h :: rest → decode h = i →
    step s = exec i { s with inputs := rest }

/-- The model's choices (log 2, log 3), not rules: with nothing scheduled, or with a scheduled TXT step and an empty TX FIFO, the
machine holds its state, which R194 says of it as long as it is powered and not reset. -/
def Obligations.IdleStepHoldsTheState : Prop :=
  ∀ s : State, (s.inputs = [] → step s = .next s) ∧
    ∀ rest : List Input, s.inputs = .emit :: rest → s.txf = [] → step s = .next { s with inputs := rest }

/-- R180, R152, R210: every request and every step completes; CPF neither faults nor refuses. -/
def Obligations.EveryRequestAndStepCompletes : Prop :=
  (∀ (i : Instr) (s : State), Continues (exec i s)) ∧ ∀ s : State, Continues (step s)

/-- R21 (no op alters which request comes next; each is performed once) and R22 (the configuration is fixed). -/
def Obligations.StepConsumesOneInputAndKeepsParameters : Prop :=
  ∀ s t : State, step s = .next t → t.inputs = s.inputs.tail ∧ t.cfg = s.cfg

/-- R22 ("Nothing else persists between steps"), R47: the bytes already observed have no influence on what CPF does. -/
def Obligations.ObservedBytesDoNotInfluenceAStep : Prop :=
  ∀ (s t : State) (w r : List Byte), step s = .next t →
    step { s with wireOut := w ++ s.wireOut, readOut := r ++ s.readOut } =
      .next { t with wireOut := w ++ t.wireOut, readOut := r ++ t.readOut }

/-- R48: what a step may change, element by element. Request words are R76's; 0x84-0x86 and 0xA0-0xBF are the high bytes
of writes to 0x04-0x06 and 0x20-0x3F, 0x88-0x8B of writes to TIME, 0x87 of writes to HB_CMD. -/
def Obligations.EachElementHasOnlyItsListedWriters : Prop :=
  ∀ (s t : State) (x : Input) (rest : List Input), s.inputs = x :: rest → step s = .next t →
    (t.txp ≠ s.txp → x = .reset ∨ ∃ h : RequestWord, x = .host h ∧
      ((0x8400 ≤ h.toNat ∧ h.toNat ≤ 0x86FF) ∨ (0xA000 ≤ h.toNat ∧ h.toNat ≤ 0xBFFF))) ∧
    (t.rxp ≠ s.rxp ∨ t.rxpValid ≠ s.rxpValid → x = .reset ∨ (x = .host 0x8004 ∧ t.result = 0x06)) ∧
    (t.rxf ≠ s.rxf → x = .reset ∨ (∃ b, x = .deliver b ∧ t.rxf = s.rxf ++ [b]) ∨
      (x = .host 0x8004 ∧ 35 ≤ s.rxf.length ∧ t.rxf = s.rxf.drop 35)) ∧
    (t.txf ≠ s.txf → x = .reset ∨ (x = .emit ∧ t.txf = s.txf.drop 1) ∨
      ((x = .host 0x8003 ∨ x = .host 0x8005) ∧ ∃ bs, bs.length = 35 ∧ t.txf = s.txf ++ bs)) ∧
    (t.result ≠ s.result → x = .reset ∨
      ∃ h : RequestWord, x = .host h ∧ 0x8001 ≤ h.toNat ∧ h.toNat ≤ 0x80FF) ∧
    (t.resChk ≠ s.resChk → x = .reset ∨ x = .host 0x8001 ∨ (x = .host 0x8002 ∧ s.txp.len.toNat ≤ 32) ∨
      (x = .host 0x8003 ∧ t.result = 0x01) ∨ (x = .host 0x8005 ∧ t.result = 0x0A)) ∧
    (t.time ≠ s.time → x = .reset ∨ ∃ h : RequestWord, x = .host h ∧ 0x8800 ≤ h.toNat ∧ h.toNat ≤ 0x8BFF) ∧
    (t.hbCmd ≠ s.hbCmd → x = .reset ∨ ∃ h : RequestWord, x = .host h ∧ 0x8700 ≤ h.toNat ∧ h.toNat ≤ 0x87FF) ∧
    (t.hbLast ≠ s.hbLast → x = .reset ∨ (x = .host 0x8005 ∧ t.result = 0x0A)) ∧
    (t.discardCount ≠ s.discardCount → x = .reset ∨ x = .host 0x8006 ∨
      (x = .host 0x8004 ∧ (t.result = 0x07 ∨ t.result = 0x08))) ∧
    (t.rxOverflow ≠ s.rxOverflow → x = .reset ∨ x = .host 0x8006 ∨
      ∃ b, x = .deliver b ∧ s.cfg.rxDepth ≤ s.rxf.length)

/-- R22, R27, R28, R80, R26, R131: every step, from any state that meets the invariant, keeps the FIFOs within their
depths, RESULT a code of R80, and RXP a valid packet once RXP_VALID is 1 and all zeros before. -/
def Obligations.EveryStepKeepsTheInvariant : Prop :=
  ∀ s t : State, s.Inv → step s = .next t → t.Inv

/-- The invariant holds at reset, whatever the parameters. -/
def Obligations.InvariantHoldsAtReset : Prop :=
  State.reset.Inv ∧ ∀ c : Config, (State.resetWith c).Inv

/-! ### Encoding -/

/-- R76, R78, R88: the decoder reads back every well-formed request, every operand at every value. -/
def Obligations.DecodeOfEncodeIsTheRequest : Prop :=
  ∀ i : Instr, i.WellFormed → decode (encode i) = i

/-- R70, R71, R78: every word decodes to a well-formed request, whose encoding is the word itself but for the ignored DATA
of a read. -/
def Obligations.EncodeOfDecodeIsTheWord : Prop :=
  ∀ h : RequestWord, (decode h).WellFormed ∧
    (0x8000 ≤ h.toNat → encode (decode h) = h) ∧
    (h.toNat < 0x8000 → (encode (decode h)).toNat = 0x100 * (h.toNat / 0x100))

/-- R78: a word decodes to the matching row whose mask has the most one bits, and to that row only, with the fields of the
rule's pseudocode. -/
def Obligations.DecodeTakesTheMostSpecificRow : Prop :=
  ∀ h : RequestWord, opcodeRow (decode h) ∈ opcodeRows ∧ (opcodeRow (decode h)).fits h = true ∧
    (∀ r ∈ opcodeRows, r.fits h = true → r ≠ opcodeRow (decode h) →
      r.specificity < (opcodeRow (decode h)).specificity) ∧
    (h.toNat < 0x8000 → ∃ a : RegOffset, decode h = .regRead a ∧ a.toNat = h.toNat / 0x100) ∧
    (0x8007 ≤ h.toNat → h.toNat ≤ 0x80FF → ∃ c : Byte, decode h = .opReserved c ∧ c.toNat = h.toNat % 0x100) ∧
    (0x8100 ≤ h.toNat → ∃ (a : RegOffset) (d : Byte), decode h = .regWrite a d ∧ a.toNat = h.toNat / 0x100 - 0x80 ∧
      d.toNat = h.toNat % 0x100)

/-- R76, R70: words written out from the table decode to their instructions. -/
def Obligations.TableWordsDecode : Prop :=
  decode 0x8000 = .nop ∧ decode 0x8001 = .chkcalc ∧ decode 0x8002 = .chkverify ∧ decode 0x8003 = .send ∧
  decode 0x8004 = .recv ∧ decode 0x8005 = .heartbeat ∧ decode 0x8006 = .clrflags ∧
  decode 0x8007 = .opReserved 0x07 ∧ decode 0x80FF = .opReserved 0xFF ∧ decode 0x8521 = .regWrite 0x05 0x21 ∧
  decode 0xBF01 = .regWrite 0x3F 0x01 ∧ decode 0x0180 = .regRead 0x01 ∧ decode 0x5F00 = .regRead 0x5F

/-- R88: what the disassembler prints assembles to the request's word. -/
def Obligations.DisassembledLineAssemblesBack : Prop :=
  ∀ (i : Instr) (n : Nat), i.WellFormed → assemble n (disassemble i) = some [encode i]

/-! ### Host access -/

/-- R160: REG_READ returns the register the map gives, for every offset, and changes nothing. -/
def Obligations.RegReadReturnsTheMappedRegister : Prop :=
  ∀ (off : RegOffset) (s : State), ∃ v : Byte,
    exec (.regRead off) s = .next { s with readOut := s.readOut ++ [v] } ∧
    (off.toNat = 0x00 → v = 0x00) ∧
    (off.toNat = 0x01 →
      (v.getLsbD 0 = true ↔ 35 ≤ s.rxf.length) ∧ (v.getLsbD 1 = true ↔ 35 ≤ s.cfg.txDepth - s.txf.length) ∧
      (v.getLsbD 2 = true ↔ s.txf = []) ∧ v.getLsbD 3 = s.rxOverflow ∧ v.getLsbD 4 = s.rxpValid ∧
      v.getLsbD 5 = false ∧ v.getLsbD 6 = false ∧ v.getLsbD 7 = false) ∧
    (off.toNat = 0x02 → v = s.result) ∧ (off.toNat = 0x03 → v = s.resChk) ∧
    (off.toNat = 0x04 → v = s.txp.cmd) ∧ (off.toNat = 0x05 → v = s.txp.len) ∧ (off.toNat = 0x06 → v = s.txp.chk) ∧
    (off.toNat = 0x07 → v = s.hbCmd) ∧
    (∀ k, k < 4 → off.toNat = 0x08 + k → v.toNat = s.time.toNat / 2 ^ (8 * (3 - k)) % 256) ∧
    (∀ k, k < 4 → off.toNat = 0x0C + k → v.toNat = s.hbLast.toNat / 2 ^ (8 * (3 - k)) % 256) ∧
    (off.toNat = 0x10 → v.toNat = s.discardCount.toNat / 256) ∧
    (off.toNat = 0x11 → v.toNat = s.discardCount.toNat % 256) ∧
    (off.toNat = 0x12 → s.rxf.length ≤ s.cfg.rxDepth → v.toNat = s.rxf.length) ∧
    (off.toNat = 0x13 → s.txf.length ≤ s.cfg.txDepth → v.toNat = s.txf.length) ∧
    (off.toNat = 0x14 → v = s.rxp.cmd) ∧ (off.toNat = 0x15 → v = s.rxp.len) ∧ (off.toNat = 0x16 → v = s.rxp.chk) ∧
    (∀ (i : Nat) (h : i < 32), off.toNat = 0x20 + i → v = s.txp.pay[i]) ∧
    (∀ (i : Nat) (h : i < 32), off.toNat = 0x40 + i → v = s.rxp.pay[i]) ∧
    (ReservedOffset off → v = 0x00)

/-- R29: STATUS, its five bits, its reserved bits, its being read-only. -/
def Obligations.StatusIsComputedFromTheState : Prop :=
  (∀ s : State, ∃ v : Byte, exec (.regRead 0x01) s = .next { s with readOut := s.readOut ++ [v] } ∧
    v.toNat = (if 35 ≤ s.rxf.length then 1 else 0) + (if 35 ≤ s.cfg.txDepth - s.txf.length then 2 else 0)
      + (if s.txf.length = 0 then 4 else 0) + (if s.rxOverflow = true then 8 else 0)
      + (if s.rxpValid = true then 16 else 0)) ∧
  ∀ (v : Byte) (s : State), exec (.regWrite 0x01 v) s = .next s

/-- R39: the level registers neither saturate nor truncate, and host writes to them are ignored. -/
def Obligations.LevelRegistersReadTheLevels : Prop :=
  ∀ s : State, s.FifosFit →
    (∃ v : Byte, exec (.regRead 0x12) s = .next { s with readOut := s.readOut ++ [v] } ∧ v.toNat = s.rxf.length) ∧
    (∃ v : Byte, exec (.regRead 0x13) s = .next { s with readOut := s.readOut ++ [v] } ∧ v.toNat = s.txf.length) ∧
    ∀ v : Byte, exec (.regWrite 0x12 v) s = .next s ∧ exec (.regWrite 0x13 v) s = .next s

/-- R161: REG_WRITE stores one register, or has no effect, for every offset a REG_WRITE can have. -/
def Obligations.RegWriteStoresTheMappedRegister : Prop :=
  ∀ (off : RegOffset) (v : Byte) (s : State), off.toNat ≠ 0x00 → ∃ t, exec (.regWrite off v) s = .next t ∧
    (off.toNat = 0x04 → t = { s with txp := { s.txp with cmd := v } }) ∧
    (off.toNat = 0x05 → t = { s with txp := { s.txp with len := v } }) ∧
    (off.toNat = 0x06 → t = { s with txp := { s.txp with chk := v } }) ∧
    (off.toNat = 0x07 → t = { s with hbCmd := v }) ∧
    (∀ k, k < 4 → off.toNat = 0x08 + k → t = { s with time := t.time } ∧
      ∀ b, b < 32 → t.time.getLsbD b = if b / 8 = 3 - k then v.getLsbD (b % 8) else s.time.getLsbD b) ∧
    (∀ (i : Nat) (h : i < 32), off.toNat = 0x20 + i → t = { s with txp := { s.txp with pay := s.txp.pay.set i v } }) ∧
    (¬ WritableOffset off → t = s)

/-- R38 (RW: "the read returns the last value written"): a written register reads back the byte, and no other offset reads
otherwise than before. -/
def Obligations.WrittenRegisterReadsBackAndNoOtherChanges : Prop :=
  ∀ (off : RegOffset) (v : Byte) (s : State), WritableOffset off → ∃ t, exec (.regWrite off v) s = .next t ∧
    ∀ off' : RegOffset, ∃ u : Byte, exec (.regRead off') s = .next { s with readOut := s.readOut ++ [u] } ∧
      exec (.regRead off') t = .next { t with readOut := t.readOut ++ [if off' = off then v else u] }

/-- R40: a reserved offset reads 0x00 and ignores writes; neither touches RESULT or anything else. -/
def Obligations.ReservedOffsetsReadZeroAndIgnoreWrites : Prop :=
  ∀ (off : RegOffset) (v : Byte) (s : State), ReservedOffset off →
    exec (.regRead off) s = .next { s with readOut := s.readOut ++ [0x00] } ∧ exec (.regWrite off v) s = .next s

/-- R56: two reads with no other step between them return the same value, and no read changes what another returns. -/
def Obligations.ReadsHaveNoSideEffect : Prop :=
  ∀ (a b : RegOffset) (s : State), ∃ t v, exec (.regRead a) s = .next t ∧
    exec (.regRead b) s = .next { s with readOut := s.readOut ++ [v] } ∧
    exec (.regRead b) t = .next { t with readOut := t.readOut ++ [v] }

/-- R162: NOP, the word 0x8000, changes nothing; RESULT keeps the previous op's code. -/
def Obligations.NopChangesNothing : Prop :=
  (∀ s : State, exec .nop s = .next s) ∧
  ∀ (s : State) (rest : List Input), s.inputs = .host 0x8000 :: rest → step s = .next { s with inputs := rest }

/-- R163: CLRFLAGS clears RX_OVERFLOW and DISCARD_COUNT, reports DONE, and touches nothing else. -/
def Obligations.ClrflagsClearsFlagAndCounterOnly : Prop :=
  decode 0x8006 = .clrflags ∧ ∀ s : State, exec .clrflags s = .next { s with rxOverflow := false, discardCount := 0x0000, result := 0x01 }

/-- R167: every reserved code 0x07-0xFF, written to OPCODE, reports ILLEGAL_OP and changes nothing else. -/
def Obligations.ReservedCodeReportsIllegalOp : Prop :=
  ∀ (code : Byte) (s : State), 0x07 ≤ code.toNat →
    decode (BitVec.ofNat 16 (0x8000 + code.toNat)) = .opReserved code ∧
    exec (.opReserved code) s = .next { s with result := 0x0C }

/-- R80, R30, R71: every op but NOP reports one of its own codes, whatever the state; NOP, reads and writes leave RESULT. -/
def Obligations.EachRequestReportsOnlyItsCodes : Prop :=
  ∀ (i : Instr) (s : State), ∃ t, exec i s = .next t ∧ ReportsOwnCode i s t

/-- R62, R210: RESULT read right after a request holds the code that request left. -/
def Obligations.ResultIsVisibleToTheNextRequest : Prop :=
  ∀ (s u : State) (h : RequestWord) (rest : List Input), s.inputs = .host h :: .host 0x0200 :: rest →
    exec (decode h) { s with inputs := .host 0x0200 :: rest } = .next u →
    Host.Core.run core 2 s = .next { u with inputs := rest, readOut := u.readOut ++ [u.result] }

/-! ### Checksum codec -/

/-- R100: XORFOLD is the loop of its pseudocode, and reads no byte at or beyond `n`. -/
def Obligations.XorfoldIsTheIndexedLoop : Prop :=
  ∀ (cmd n : Byte) (p q : List Byte), n.toNat ≤ 32 → n.toNat ≤ p.length →
    xorFold cmd n p = (List.range n.toNat).foldl (fun x i => x ^^^ p.getD i 0) (cmd ^^^ n) ∧
    (p.take n.toNat = q.take n.toNat → xorFold cmd n q = xorFold cmd n p)

/-- R101 (laws 2 to 5; law 1 is the type), which the spec marks as derived: parity per bit, no dependence on the order of the folded
values, the empty fold, and the cancelling of two equal bytes. R100 defines XORFOLD for `n <= 32` and at least `n` bytes; that the
laws hold beyond that rests on `xorFold` being total, the model's choice (log 10). -/
def Obligations.XorfoldLaws : Prop :=
  (∀ (cmd n : Byte) (p : List Byte) (k : Nat), k < 8 →
    ((xorFold cmd n p).getLsbD k = true ↔
      ((cmd :: n :: p.take n.toNat).countP fun b => b.getLsbD k) % 2 = 1)) ∧
  (∀ (cmd n : Byte) (p l : List Byte), l.Perm (cmd :: n :: p.take n.toNat) →
    l.foldl (fun x b => x ^^^ b) 0 = xorFold cmd n p) ∧
  (∀ (cmd : Byte) (p : List Byte), xorFold cmd 0 p = cmd) ∧
  (∀ (cmd n : Byte) (p : List Byte) (i j : Nat), i < j → j < n.toNat → j < p.length → p.getD i 0 = p.getD j 0 →
    (((p.take n.toNat).eraseIdx j).eraseIdx i).foldl (fun x b => x ^^^ b) (cmd ^^^ n) = xorFold cmd n p)

/-- R103: CHKCALC, with its corner cases and its frame. -/
def Obligations.ChkcalcComputesTheClampedFold : Prop :=
  decode 0x8001 = .chkcalc ∧ ∀ s : State, ∃ c : Byte, exec .chkcalc s = .next { s with resChk := c, result := 0x01 } ∧
    c = xorFold s.txp.cmd (BitVec.ofNat 8 (min s.txp.len.toNat 32)) s.txp.pay.toList ∧
    (s.txp.len = 0x00 → c = s.txp.cmd) ∧
    (32 < s.txp.len.toNat → ∃ t, exec .chkcalc { s with txp := { s.txp with len := 0x20 } } = .next t ∧ t.resChk = c) ∧
    (∀ k : Byte, ∃ t, exec .chkcalc { s with txp := { s.txp with chk := k } } = .next t ∧ t.resChk = c)

/-- R105: CHKVERIFY, its three outcomes in order, and its frame; bytes at or beyond the length do not matter. -/
def Obligations.ChkverifyAppliesValid : Prop :=
  decode 0x8002 = .chkverify ∧ ∀ s : State,
    (32 < s.txp.len.toNat → exec .chkverify s = .next { s with result := 0x04 }) ∧
    (s.txp.len.toNat ≤ 32 → ∃ c : Byte, c = xorFold s.txp.cmd s.txp.len s.txp.pay.toList ∧
      (c = s.txp.chk → exec .chkverify s = .next { s with resChk := c, result := 0x02 }) ∧
      (c ≠ s.txp.chk → exec .chkverify s = .next { s with resChk := c, result := 0x03 })) ∧
    (∀ (i : Nat) (b : Byte) (h : i < 32), s.txp.len.toNat ≤ i → ∃ t t',
      exec .chkverify s = .next t ∧
      exec .chkverify { s with txp := { s.txp with pay := s.txp.pay.set i b } } = .next t' ∧
      t'.result = t.result ∧ t'.resChk = t.resChk)

/-- The corner cases of R103, R105 and R31 that the spec marks as derived: CHKCALC gives the checksum byte a SEND of the same staging
packet transmits, and CHKVERIFY matches exactly when the staging packet is valid (R102). -/
def Obligations.CodecOpsAgreeWithSendAndValid : Prop :=
  ∀ s : State,
    (35 ≤ s.cfg.txDepth - s.txf.length → ∃ t u, exec .chkcalc s = .next t ∧ exec .send s = .next u ∧
      u.resChk = t.resChk ∧ u.txf.getLast? = some t.resChk) ∧
    (∃ t, exec .chkverify s = .next t ∧ (t.result = 0x02 ↔ valid s.txp = true))

/-- R108 case 1: changing exactly one of cmd, chk, or a payload byte below the length, by any non-zero difference, is always
detected. -/
def Obligations.OneChangedFoldedByteIsDetected : Prop :=
  ∀ (p : Packet) (d : Byte), valid p = true → d ≠ 0x00 →
    valid { p with cmd := p.cmd ^^^ d } = false ∧ valid { p with chk := p.chk ^^^ d } = false ∧
    ∀ (i : Nat) (h : i < 32), i < p.len.toNat → valid { p with pay := p.pay.set i (p.pay[i] ^^^ d) } = false

/-- R108 case 2: a change of a payload byte at or beyond the length is never detected, and leaves the first `len` bytes. -/
def Obligations.BytesBeyondTheLengthAreNotCovered : Prop :=
  ∀ (p : Packet) (i : Nat) (b : Byte) (h : i < 32), p.len.toNat ≤ i →
    valid { p with pay := p.pay.set i b } = valid p ∧
    (p.pay.set i b).toList.take p.len.toNat = p.pay.toList.take p.len.toNat

/-- R108 cases 1 and 3, read with the length unchanged (log 12): from a valid packet, a change of any folded bytes goes undetected
exactly when the XOR of all their differences is 0. -/
def Obligations.SameLengthChangeHidesExactlyWhenDifferencesCancel : Prop :=
  ∀ p q : Packet, valid p = true → q.len = p.len →
    (valid q = true ↔
      (List.range p.len.toNat).foldl (fun x i => x ^^^ (p.pay.toList.getD i 0 ^^^ q.pay.toList.getD i 0))
        ((p.cmd ^^^ q.cmd) ^^^ (p.chk ^^^ q.chk)) = 0x00)

/-- R108 case 3: swapping two folded bytes, two payload bytes below the length or cmd with one of them, is never detected. -/
def Obligations.SwappedFoldedBytesAreNotDetected : Prop :=
  ∀ (p : Packet) (i j : Nat) (hi : i < 32) (hj : j < 32), valid p = true → i < p.len.toNat → j < p.len.toNat →
    valid { p with pay := (p.pay.set i p.pay[j]).set j p.pay[i] } = true ∧
    valid { p with cmd := p.pay[i], pay := p.pay.set i p.cmd } = true

/-- R108 cases 4 and 5: a change of the length alone, to at most 32, is undetected exactly when `L ^ L'` cancels the payload bytes
between the two lengths; to more than 32 it is always detected. -/
def Obligations.LengthChangeHidesExactlyWhenItCancels : Prop :=
  ∀ (p : Packet) (l : Byte), valid p = true →
    (l.toNat ≤ 32 → (valid { p with len := l } = true ↔
      ((p.pay.toList.take (max p.len.toNat l.toNat)).drop (min p.len.toNat l.toNat)).foldl (fun x b => x ^^^ b)
        (p.len ^^^ l) = 0x00)) ∧
    (32 < l.toNat → valid { p with len := l } = false)

/-! ### Wire format -/

/-- R84, R85: which byte is which field, in SER and in DES. -/
def Obligations.SerializerAndDeserializerLayout : Prop :=
  (∀ p : Packet, (ser p).length = 35 ∧ (ser p)[0]? = some p.cmd ∧ (ser p)[1]? = some p.len ∧
    (∀ (i : Nat) (h : i < 32), (ser p)[2 + i]? = some p.pay[i]) ∧ (ser p)[34]? = some p.chk) ∧
  ∀ bs : List Byte, bs.length = 35 → bs[0]? = some (des bs).cmd ∧ bs[1]? = some (des bs).len ∧
    (∀ (i : Nat) (h : i < 32), bs[2 + i]? = some (des bs).pay[i]) ∧ bs[34]? = some (des bs).chk

/-- R85's law, which the spec marks as derived: SER and DES are inverse. -/
def Obligations.SerializeAndDeserializeAreInverse : Prop :=
  (∀ p : Packet, des (ser p) = p) ∧ ∀ bs : List Byte, bs.length = 35 → ser (des bs) = bs

/-- R120: SEND enqueues the packet it builds, all 35 bytes or none, and changes nothing else. -/
def Obligations.SendEnqueuesTheBuiltPacket : Prop :=
  decode 0x8003 = .send ∧ ∀ s : State,
    (s.cfg.txDepth - s.txf.length < 35 → exec .send s = .next { s with result := 0x09 }) ∧
    (35 ≤ s.cfg.txDepth - s.txf.length → ∃ (n : Nat) (c : Byte) (bs : List Byte),
      exec .send s = .next { s with txf := s.txf ++ bs, resChk := c, result := 0x01 } ∧
      n = min s.txp.len.toNat 32 ∧ c = xorFold s.txp.cmd (BitVec.ofNat 8 n) s.txp.pay.toList ∧
      bs.length = 35 ∧ bs[0]? = some s.txp.cmd ∧ bs[1]? = some (BitVec.ofNat 8 n) ∧
      (∀ (i : Nat) (h : i < 32), bs[2 + i]? = some (if i < n then s.txp.pay[i] else 0x00)) ∧ bs[34]? = some c)

/-- R121, R102: every packet SEND or HEARTBEAT enqueues is one a receiver accepts. -/
def Obligations.EveryEnqueuedPacketIsValid : Prop :=
  ∀ (i : Instr) (s t : State), i = .send ∨ i = .heartbeat → exec i s = .next t → t.txf ≠ s.txf →
    ∃ p : Packet, t.txf = s.txf ++ ser p ∧ p.len.toNat ≤ 32 ∧ p.chk = xorFold p.cmd p.len p.pay.toList ∧
      valid (des (ser p)) = true

/-- R213, R64: SEND leaves TXP, a later register write leaves the queued bytes, and a second SEND with room sends the same
packet again. -/
def Obligations.SendSnapshotsTheStagingPacket : Prop :=
  ∀ s : State, 35 ≤ s.cfg.txDepth - s.txf.length → ∃ (t : State) (bs : List Byte),
    exec .send s = .next t ∧ bs.length = 35 ∧ t.txf = s.txf ++ bs ∧ t.txp = s.txp ∧
    (∀ (off : RegOffset) (v : Byte), ∃ u, exec (.regWrite off v) t = .next u ∧ u.txf = t.txf) ∧
    (35 ≤ t.cfg.txDepth - t.txf.length → ∃ u, exec .send t = .next u ∧ u.txf = t.txf ++ bs)

/-- R130: RECV, its four outcomes in order, with their frames. The packet is the one whose serialization is the 35 oldest
bytes. -/
def Obligations.RecvConsumesOnePacketOrNothing : Prop :=
  decode 0x8004 = .recv ∧ ∀ s : State,
    (s.rxf.length < 35 → exec .recv s = .next { s with result := 0x05 }) ∧
    (35 ≤ s.rxf.length → ∃ p : Packet, ser p = s.rxf.take 35 ∧
      (32 < p.len.toNat → exec .recv s =
        .next { s with rxf := s.rxf.drop 35, discardCount := s.discardCount + 1, result := 0x08 }) ∧
      (p.len.toNat ≤ 32 → xorFold p.cmd p.len p.pay.toList ≠ p.chk → exec .recv s =
        .next { s with rxf := s.rxf.drop 35, discardCount := s.discardCount + 1, result := 0x07 }) ∧
      (p.len.toNat ≤ 32 → xorFold p.cmd p.len p.pay.toList = p.chk → exec .recv s =
        .next { s with rxf := s.rxf.drop 35, rxp := p, rxpValid := true, result := 0x06 }))

/-- R131, R102: RECV accepts a block exactly when the block's packet is valid. -/
def Obligations.RecvAcceptsExactlyValidBlocks : Prop :=
  ∀ (s t : State) (p : Packet) (rest : List Byte), s.rxf = ser p ++ rest → exec .recv s = .next t →
    (t.result = 0x06 ↔ valid p = true) ∧ (t.rxp = p ↔ valid p = true ∨ s.rxp = p)

/-- R132 (and R133): RECV completes whatever the level, and consumes at most one packet's 35 bytes, all or none; bytes after the first
35 stay, in order, and have no influence on what the RECV does with the first 35. -/
def Obligations.RecvLeavesLaterBytesAlone : Prop :=
  (∀ s : State, ∃ t, exec .recv s = .next t ∧
    t.rxf = if 35 ≤ s.rxf.length then s.rxf.drop 35 else s.rxf) ∧
  ∀ (s : State) (a b : List Byte), a.length = 35 → ∃ t : State,
    exec .recv { s with rxf := a } = .next { t with rxf := [] } ∧
    exec .recv { s with rxf := a ++ b } = .next { t with rxf := b }

/-- R134: a discard changes nothing outside RXF, DISCARD_COUNT and RESULT; an accepted packet is kept byte for byte, those at or
beyond its length included. -/
def Obligations.DiscardAppliesNothingAndAcceptKeepsRawBytes : Prop :=
  ∀ s t : State, exec .recv s = .next t →
    (t.result = 0x07 ∨ t.result = 0x08 →
      t = { s with rxf := t.rxf, discardCount := t.discardCount, result := t.result } ∧
      t.discardCount.toNat = (s.discardCount.toNat + 1) % 65536) ∧
    (t.result = 0x06 → ∀ (i : Nat) (h : i < 32), s.rxf[2 + i]? = some t.rxp.pay[i])

/-- R135: a packet some CPF has sent, arriving unchanged at the head of a receiver's FIFO, is received. -/
def Obligations.SentPacketIsReceived : Prop :=
  ∀ (a a' : State), exec .send a = .next a' → a'.result = 0x01 → ∃ p : Packet, a'.txf = a.txf ++ ser p ∧
    ∀ (b : State) (rest : List Byte), b.rxf = ser p ++ rest →
      exec .recv b = .next { b with rxf := rest, rxp := p, rxpValid := true, result := 0x06 }

/-- R135 through the transport (R150, R151, R61): one CPF's SEND, 35 TXT steps of it, the same 35 bytes delivered by the RXT steps of
another whose receive FIFO is empty, and that one's RECV latch the packet sent: the staged command, the clamped length, the staged
payload up to it and 0x00 beyond (R120). -/
def Obligations.LoopbackThroughBothStreams : Prop :=
  ∀ (a b : State) (rest restB : List Input), a.txf = [] → a.inputs = .host 0x8003 :: (List.replicate 35 .emit ++ rest) →
    b.rxf = [] → ∃ (a' : State) (bs : List Byte),
      Host.Core.run core 36 a = .next a' ∧ a'.txf = [] ∧ bs.length = 35 ∧ a'.wireOut = a.wireOut ++ bs ∧ a'.inputs = rest ∧
      (b.inputs = bs.map .deliver ++ .host 0x8004 :: restB → ∃ b' : State, Host.Core.run core 36 b = .next b' ∧
        ser b'.rxp = bs ∧ b'.rxp.cmd = a.txp.cmd ∧ b'.rxp.len.toNat = min a.txp.len.toNat 32 ∧
        (∀ (i : Nat) (h : i < 32), b'.rxp.pay[i] = if i < min a.txp.len.toNat 32 then a.txp.pay[i] else 0x00) ∧
        b'.rxpValid = true ∧ b'.result = 0x06 ∧ b'.rxf = [] ∧ b'.inputs = restB)

/-! ### Heartbeat -/

/-- R140, R87: HEARTBEAT, its three outcomes in order, with their frames and the packet's bytes. -/
def Obligations.HeartbeatIsRateLimitedAndCarriesTheTime : Prop :=
  decode 0x8005 = .heartbeat ∧ ∀ s : State,
    ((s.time.toNat + 2 ^ 32 - s.hbLast.toNat) % 2 ^ 32 < 1000 → exec .heartbeat s = .next { s with result := 0x0B }) ∧
    (1000 ≤ (s.time.toNat + 2 ^ 32 - s.hbLast.toNat) % 2 ^ 32 →
      (s.cfg.txDepth - s.txf.length < 35 → exec .heartbeat s = .next { s with result := 0x09 }) ∧
      (35 ≤ s.cfg.txDepth - s.txf.length → ∃ (c : Byte) (bs : List Byte),
        exec .heartbeat s =
          .next { s with txf := s.txf ++ bs, hbLast := s.time, resChk := c, result := 0x0A } ∧
        bs.length = 35 ∧ bs[0]? = some s.hbCmd ∧ bs[1]? = some 0x04 ∧
        (∀ k, k < 4 → bs[2 + k]? = some (BitVec.ofNat 8 (s.time.toNat / 2 ^ (8 * (3 - k))))) ∧
        (∀ i, 4 ≤ i → i < 32 → bs[2 + i]? = some 0x00) ∧ bs[34]? = some c ∧
        c = xorFold s.hbCmd 0x04 ((bs.drop 2).take 4)))

/-- R141, read of one heartbeat and the next (log 13): with no reset between them, TIME has advanced by at least 1000 modulo
2^32, whatever the agents did in between. -/
def Obligations.SuccessiveHeartbeatsAreAtLeastThePeriodApart : Prop :=
  ∀ s t s' t' : State, SendsHeartbeat s t → QuietRun t s' → SendsHeartbeat s' t' →
    1000 ≤ (s'.time.toNat + 2 ^ 32 - s.time.toNat) % 2 ^ 32

/-! ### Transport -/

/-- R150: RXT's step. The byte is appended, or lost with RX_OVERFLOW set when the FIFO is full. -/
def Obligations.DeliverAppendsOrOverflows : Prop :=
  ∀ (s : State) (b : Byte) (rest : List Input), s.inputs = .deliver b :: rest →
    (s.rxf.length < s.cfg.rxDepth → step s = .next { s with rxf := s.rxf ++ [b], inputs := rest }) ∧
    (s.cfg.rxDepth ≤ s.rxf.length → step s = .next { s with rxOverflow := true, inputs := rest })

/-- R151: TXT's step, enabled while the FIFO is not empty, takes the oldest byte onto the wire and changes nothing else. -/
def Obligations.EmitPutsTheOldestByteOnTheWire : Prop :=
  ∀ (s : State) (rest : List Input) (b : Byte) (bs : List Byte), s.inputs = .emit :: rest → s.txf = b :: bs →
    step s = .next { s with txf := bs, wireOut := s.wireOut ++ [b], inputs := rest }

/-- R53, R48: the transport's steps change only RXF, TXF and RX_OVERFLOW (and the wire); no register of a multi-byte value moves under
the host's reads. -/
def Obligations.TransportStepsLeaveTheRegisters : Prop :=
  ∀ (s t : State) (x : Input) (rest : List Input), s.inputs = x :: rest → (x = .emit ∨ ∃ b, x = .deliver b) →
    step s = .next t →
    t = { s with rxf := t.rxf, txf := t.txf, rxOverflow := t.rxOverflow, wireOut := t.wireOut, inputs := rest }

/-- R36: RX_OVERFLOW is sticky, and STATUS bit 3. It is set by a delivery at level RX_DEPTH, cleared by CLRFLAGS and reset, and nothing
else moves it. -/
def Obligations.OverflowFlagIsSticky : Prop :=
  (∀ s : State, ∃ v : Byte, exec (.regRead 0x01) s = .next { s with readOut := s.readOut ++ [v] } ∧
    v.getLsbD 3 = s.rxOverflow) ∧
  ∀ (s t : State) (x : Input) (rest : List Input), s.inputs = x :: rest → step s = .next t →
    ((∃ b, x = .deliver b) → s.rxf.length = s.cfg.rxDepth → t.rxOverflow = true) ∧
    (x = .host 0x8006 ∨ x = .reset → t.rxOverflow = false) ∧
    (x ≠ .host 0x8006 → x ≠ .reset → ((∃ b, x = .deliver b) → s.rxf.length < s.cfg.rxDepth) →
      t.rxOverflow = s.rxOverflow)

/-- R61: over any run without a reset, the bytes on the wire followed by those queued grow only by whole valid packets, in
order and never interleaved. -/
def Obligations.WireCarriesWholePacketsInOrder : Prop :=
  ∀ (k : Nat) (s t : State), .reset ∉ s.inputs.take k → Host.Core.run core k s = .next t →
    ∃ ps : List Packet, (∀ p ∈ ps, valid p = true) ∧
      t.wireOut ++ t.txf = s.wireOut ++ s.txf ++ ps.flatMap ser

/-- R214: check-then-act is free of races. RX_AVAIL stays 1 until a RECV or a reset, and a RECV then takes a packet; TX_SPACE stays
1 until a SEND or HEARTBEAT, and a SEND then is not busy; TX_EMPTY can become 1 at a TXT step. -/
def Obligations.CheckThenActIsFreeOfRaces : Prop :=
  (∀ (s t : State) (x : Input) (rest : List Input), s.inputs = x :: rest → step s = .next t →
    ((statusByte s).getLsbD 0 = true → x ≠ .host 0x8004 → x ≠ .reset → (statusByte t).getLsbD 0 = true) ∧
    ((statusByte s).getLsbD 1 = true → x ≠ .host 0x8003 → x ≠ .host 0x8005 → (statusByte t).getLsbD 1 = true) ∧
    (x = .emit → s.txf.length = 1 → (statusByte s).getLsbD 2 = false ∧ (statusByte t).getLsbD 2 = true)) ∧
  (∀ s t : State, (statusByte s).getLsbD 0 = true → exec .recv s = .next t → t.result ≠ 0x05) ∧
  (∀ s t : State, (statusByte s).getLsbD 1 = true → exec .send s = .next t → t.result = 0x01)

/-! ### Pseudo-instructions -/

/-- R89: `wr32 TIME` sets TIME, and `rd32 TIME`, `rd32 HB_LAST`, `rd16 DISCARD` return the register's value in read order. -/
def Obligations.PseudoInstructionsMoveWholeRegisters : Prop :=
  ∀ (s : State) (n : Nat) (v : Stamp) (ws : List RequestWord) (rest : List Input),
    (assemble n (.wr32Time v) = some ws → s.inputs = ws.map .host ++ rest →
      Host.Core.run core 4 s = .next { s with time := v, inputs := rest }) ∧
    (assemble n .rd32Time = some ws → s.inputs = ws.map .host ++ rest → ∃ bs : List Byte, bs.length = 4 ∧
      Host.Core.run core 4 s = .next { s with readOut := s.readOut ++ bs, inputs := rest } ∧
      valueOfReads bs = s.time.toNat) ∧
    (assemble n .rd32HbLast = some ws → s.inputs = ws.map .host ++ rest → ∃ bs : List Byte, bs.length = 4 ∧
      Host.Core.run core 4 s = .next { s with readOut := s.readOut ++ bs, inputs := rest } ∧
      valueOfReads bs = s.hbLast.toNat) ∧
    (assemble n .rd16Discard = some ws → s.inputs = ws.map .host ++ rest → ∃ bs : List Byte, bs.length = 2 ∧
      Host.Core.run core 2 s = .next { s with readOut := s.readOut ++ bs, inputs := rest } ∧
      valueOfReads bs = s.discardCount.toNat)

/-- R89: `ldtxp` stages the command, the length and the first k data bytes; the rest keep their earlier values. -/
def Obligations.LdtxpStagesThePacket : Prop :=
  ∀ (s : State) (n : Nat) (cmd len : Byte) (data : List Byte) (ws : List RequestWord) (rest : List Input),
    data.length ≤ 32 → assemble n (.ldtxp cmd len data) = some ws → s.inputs = ws.map .host ++ rest → ∃ t,
      Host.Core.run core (2 + data.length) s = .next t ∧ t = { s with txp := t.txp, inputs := rest } ∧
      t.txp.cmd = cmd ∧ t.txp.len = len ∧ t.txp.chk = s.txp.chk ∧
      ∀ (i : Nat) (h : i < 32), t.txp.pay[i] = data.getD i s.txp.pay[i]
end

