-- ==== Sys2Proof/Laws/Checksum.lean ====
section
/-! SUPPORT. The XOR fold (40_checksum.md R100-R102) taken apart: its start, its next byte, what it reads. -/

namespace Sys2Proof.Machine

/-- The start of a fold can be moved out of it. -/
theorem foldl_xor_start (a b : Byte) (l : List Byte) :
    l.foldl (fun x y => x ^^^ y) (a ^^^ b) = a ^^^ l.foldl (fun x y => x ^^^ y) b := by
  induction l generalizing b with
  | nil => rfl
  | cons y l ih => simpa [List.foldl_cons, BitVec.xor_assoc] using ih (b ^^^ y)

/-- The fold from any start is that start against the fold from 0. -/
theorem foldl_xor_zero (a : Byte) (l : List Byte) :
    l.foldl (fun x y => x ^^^ y) a = a ^^^ l.foldl (fun x y => x ^^^ y) 0 := by
  simpa using foldl_xor_start a 0 l

@[simp] theorem foldl_xor_cons (a b : Byte) (l : List Byte) :
    (b :: l).foldl (fun x y => x ^^^ y) a = b ^^^ l.foldl (fun x y => x ^^^ y) a := by
  rw [List.foldl_cons, BitVec.xor_comm a b, foldl_xor_start]

/-- XORFOLD as a fold from 0. -/
theorem xorFold_eq (cmd n : Byte) (p : List Byte) :
    xorFold cmd n p = cmd ^^^ n ^^^ (p.take n.toNat).foldl (fun x y => x ^^^ y) 0 :=
  foldl_xor_zero _ _

/-- XORFOLD reads the first `n` bytes only. -/
theorem xorFold_congr {p q : List Byte} {n : Byte} (cmd : Byte) (h : p.take n.toNat = q.take n.toNat) :
    xorFold cmd n p = xorFold cmd n q := by
  simp only [xorFold, h]

theorem clampLen_le (len : Byte) : (clampLen len).toNat ≤ 32 := by
  unfold clampLen payloadMax
  split
  · assumption
  · decide

theorem clampLen_toNat (len : Byte) : (clampLen len).toNat = min len.toNat 32 := by
  unfold clampLen payloadMax
  split
  · omega
  · simp; omega

/-- VALID in Prop form. -/
theorem valid_iff (p : Packet) : valid p = true ↔ p.len.toNat ≤ 32 ∧ packetFold p = p.chk := by
  simp [valid]

end Sys2Proof.Machine
end

