-- ==== Sys2Proof/Laws/State.lean ====
section
/-! SUPPORT. What each record update of the model leaves in each field: one lemma a field, so that no later proof
unfolds an update. -/

namespace Sys2Proof.Machine

section ReportFields
variable (c : ResultCode) (s : State)

@[simp] theorem report_txp : (report c s).txp = s.txp := rfl
@[simp] theorem report_rxp : (report c s).rxp = s.rxp := rfl
@[simp] theorem report_rxpValid : (report c s).rxpValid = s.rxpValid := rfl
@[simp] theorem report_rxf : (report c s).rxf = s.rxf := rfl
@[simp] theorem report_txf : (report c s).txf = s.txf := rfl
@[simp] theorem report_result : (report c s).result = resultByte c := rfl
@[simp] theorem report_resChk : (report c s).resChk = s.resChk := rfl
@[simp] theorem report_time : (report c s).time = s.time := rfl
@[simp] theorem report_hbCmd : (report c s).hbCmd = s.hbCmd := rfl
@[simp] theorem report_hbLast : (report c s).hbLast = s.hbLast := rfl
@[simp] theorem report_discardCount : (report c s).discardCount = s.discardCount := rfl
@[simp] theorem report_rxOverflow : (report c s).rxOverflow = s.rxOverflow := rfl
@[simp] theorem report_cfg : (report c s).cfg = s.cfg := rfl
@[simp] theorem report_inputs : (report c s).inputs = s.inputs := rfl
@[simp] theorem report_wireOut : (report c s).wireOut = s.wireOut := rfl
@[simp] theorem report_readOut : (report c s).readOut = s.readOut := rfl

end ReportFields

section EnqueueFields
variable (p : Packet) (s : State)

@[simp] theorem enqueue_txp : (enqueue p s).txp = s.txp := rfl
@[simp] theorem enqueue_rxp : (enqueue p s).rxp = s.rxp := rfl
@[simp] theorem enqueue_rxpValid : (enqueue p s).rxpValid = s.rxpValid := rfl
@[simp] theorem enqueue_rxf : (enqueue p s).rxf = s.rxf := rfl
@[simp] theorem enqueue_txf : (enqueue p s).txf = s.txf ++ ser p := rfl
@[simp] theorem enqueue_result : (enqueue p s).result = s.result := rfl
@[simp] theorem enqueue_resChk : (enqueue p s).resChk = p.chk := rfl
@[simp] theorem enqueue_time : (enqueue p s).time = s.time := rfl
@[simp] theorem enqueue_hbCmd : (enqueue p s).hbCmd = s.hbCmd := rfl
@[simp] theorem enqueue_hbLast : (enqueue p s).hbLast = s.hbLast := rfl
@[simp] theorem enqueue_discardCount : (enqueue p s).discardCount = s.discardCount := rfl
@[simp] theorem enqueue_rxOverflow : (enqueue p s).rxOverflow = s.rxOverflow := rfl
@[simp] theorem enqueue_cfg : (enqueue p s).cfg = s.cfg := rfl
@[simp] theorem enqueue_inputs : (enqueue p s).inputs = s.inputs := rfl
@[simp] theorem enqueue_wireOut : (enqueue p s).wireOut = s.wireOut := rfl
@[simp] theorem enqueue_readOut : (enqueue p s).readOut = s.readOut := rfl

end EnqueueFields

section CountdiscardFields
variable (s : State)

@[simp] theorem countDiscard_txp : (countDiscard s).txp = s.txp := rfl
@[simp] theorem countDiscard_rxp : (countDiscard s).rxp = s.rxp := rfl
@[simp] theorem countDiscard_rxpValid : (countDiscard s).rxpValid = s.rxpValid := rfl
@[simp] theorem countDiscard_rxf : (countDiscard s).rxf = s.rxf := rfl
@[simp] theorem countDiscard_txf : (countDiscard s).txf = s.txf := rfl
@[simp] theorem countDiscard_result : (countDiscard s).result = s.result := rfl
@[simp] theorem countDiscard_resChk : (countDiscard s).resChk = s.resChk := rfl
@[simp] theorem countDiscard_time : (countDiscard s).time = s.time := rfl
@[simp] theorem countDiscard_hbCmd : (countDiscard s).hbCmd = s.hbCmd := rfl
@[simp] theorem countDiscard_hbLast : (countDiscard s).hbLast = s.hbLast := rfl
@[simp] theorem countDiscard_discardCount : (countDiscard s).discardCount = s.discardCount + 1 := rfl
@[simp] theorem countDiscard_rxOverflow : (countDiscard s).rxOverflow = s.rxOverflow := rfl
@[simp] theorem countDiscard_cfg : (countDiscard s).cfg = s.cfg := rfl
@[simp] theorem countDiscard_inputs : (countDiscard s).inputs = s.inputs := rfl
@[simp] theorem countDiscard_wireOut : (countDiscard s).wireOut = s.wireOut := rfl
@[simp] theorem countDiscard_readOut : (countDiscard s).readOut = s.readOut := rfl

end CountdiscardFields

section LatchFields
variable (p : Packet) (s : State)

@[simp] theorem latch_txp : (latch p s).txp = s.txp := rfl
@[simp] theorem latch_rxp : (latch p s).rxp = p := rfl
@[simp] theorem latch_rxpValid : (latch p s).rxpValid = true := rfl
@[simp] theorem latch_rxf : (latch p s).rxf = s.rxf := rfl
@[simp] theorem latch_txf : (latch p s).txf = s.txf := rfl
@[simp] theorem latch_result : (latch p s).result = s.result := rfl
@[simp] theorem latch_resChk : (latch p s).resChk = s.resChk := rfl
@[simp] theorem latch_time : (latch p s).time = s.time := rfl
@[simp] theorem latch_hbCmd : (latch p s).hbCmd = s.hbCmd := rfl
@[simp] theorem latch_hbLast : (latch p s).hbLast = s.hbLast := rfl
@[simp] theorem latch_discardCount : (latch p s).discardCount = s.discardCount := rfl
@[simp] theorem latch_rxOverflow : (latch p s).rxOverflow = s.rxOverflow := rfl
@[simp] theorem latch_cfg : (latch p s).cfg = s.cfg := rfl
@[simp] theorem latch_inputs : (latch p s).inputs = s.inputs := rfl
@[simp] theorem latch_wireOut : (latch p s).wireOut = s.wireOut := rfl
@[simp] theorem latch_readOut : (latch p s).readOut = s.readOut := rfl

end LatchFields

section ResetstepFields
variable (s : State)

@[simp] theorem resetStep_txp : (resetStep s).txp = Packet.zero := rfl
@[simp] theorem resetStep_rxp : (resetStep s).rxp = Packet.zero := rfl
@[simp] theorem resetStep_rxpValid : (resetStep s).rxpValid = false := rfl
@[simp] theorem resetStep_rxf : (resetStep s).rxf = [] := rfl
@[simp] theorem resetStep_txf : (resetStep s).txf = [] := rfl
@[simp] theorem resetStep_result : (resetStep s).result = 0x00 := rfl
@[simp] theorem resetStep_resChk : (resetStep s).resChk = 0x00 := rfl
@[simp] theorem resetStep_time : (resetStep s).time = 0x00000000 := rfl
@[simp] theorem resetStep_hbCmd : (resetStep s).hbCmd = s.cfg.hbCmdReset := rfl
@[simp] theorem resetStep_hbLast : (resetStep s).hbLast = 0x00000000 := rfl
@[simp] theorem resetStep_discardCount : (resetStep s).discardCount = 0x0000 := rfl
@[simp] theorem resetStep_rxOverflow : (resetStep s).rxOverflow = false := rfl
@[simp] theorem resetStep_cfg : (resetStep s).cfg = s.cfg := rfl
@[simp] theorem resetStep_inputs : (resetStep s).inputs = s.inputs := rfl
@[simp] theorem resetStep_wireOut : (resetStep s).wireOut = s.wireOut := rfl
@[simp] theorem resetStep_readOut : (resetStep s).readOut = s.readOut := rfl

end ResetstepFields

end Sys2Proof.Machine
end

