-- ==== Sys2Proof/Laws/Ops.lean ====
section
/-! SUPPORT. Once for each shared operation, everything it can do: the FIFO and byte primitives, the effects with more
than one outcome, and the step itself. -/

namespace Sys2Proof.Machine

theorem fetchInput_nil {s : State} (h : s.inputs = []) : fetchInput s = none := by
  simp [fetchInput, h]

theorem fetchInput_cons {s : State} {i : Input} {rest : List Input} (h : s.inputs = i :: rest) :
    fetchInput s = some (i, { s with inputs := rest }) := by
  simp [fetchInput, h]

@[simp] theorem ser_length (p : Packet) : (ser p).length = 35 := by simp [ser]

@[simp] theorem stampBytesBE_length (t : Stamp) : (stampBytesBE t).length = 4 := rfl

/-- The bits of one byte of a stamp. -/
theorem stampByte_getLsbD (t : Stamp) (k j : Nat) (hj : j < 8) :
    (stampByte t k).getLsbD j = t.getLsbD (8 * k + j) := by
  simp [stampByte, hj]

theorem rxAvail_iff (s : State) : rxAvail s = true ↔ 35 ≤ s.rxf.length := by simp [rxAvail]

theorem txSpace_iff (s : State) : txSpace s = true ↔ 35 ≤ s.cfg.txDepth - s.txf.length := by simp [txSpace]

theorem txEmpty_iff (s : State) : txEmpty s = true ↔ s.txf = [] := by simp [txEmpty]

theorem txBusy_iff (s : State) : txBusy s = true ↔ s.cfg.txDepth - s.txf.length < 35 := by simp [txBusy]

/-- CHKVERIFY ends in one of three ways (R105). -/
theorem chkverify_cases (s : State) :
    (32 < s.txp.len.toNat ∧ chkverify s = report .verifyBadLength s) ∨
    (s.txp.len.toNat ≤ 32 ∧ packetFold s.txp = s.txp.chk ∧
      chkverify s = report .verifyMatch { s with resChk := packetFold s.txp }) ∨
    (s.txp.len.toNat ≤ 32 ∧ packetFold s.txp ≠ s.txp.chk ∧
      chkverify s = report .verifyMismatch { s with resChk := packetFold s.txp }) := by
  by_cases h : s.txp.len.toNat ≤ 32
  · by_cases hc : packetFold s.txp = s.txp.chk
    · exact .inr (.inl ⟨h, hc, by simp_all [chkverify, packetFold, payloadMax]⟩)
    · exact .inr (.inr ⟨h, hc, by simp_all [chkverify, packetFold, payloadMax]⟩)
  · exact .inl ⟨by omega, by simp [chkverify, payloadMax, h]⟩

/-- SEND ends in one of two ways (R120). -/
theorem send_cases (s : State) :
    (s.cfg.txDepth - s.txf.length < 35 ∧ send s = report .txBusy s) ∨
    (35 ≤ s.cfg.txDepth - s.txf.length ∧ send s = report .done (enqueue (sendPacket s.txp) s)) := by
  by_cases h : s.cfg.txDepth - s.txf.length < 35
  · exact .inl ⟨h, by simp [send, txBusy, level, packetSize, h]⟩
  · exact .inr ⟨by omega, by simp [send, txBusy, level, packetSize, h]⟩

/-- RECV ends in one of four ways (R130). -/
theorem recv_cases (s : State) :
    (s.rxf.length < 35 ∧ recv s = report .rxNone s) ∨
    (35 ≤ s.rxf.length ∧ 32 < (des (s.rxf.take 35)).len.toNat ∧
      recv s = report .rxBadLength (countDiscard { s with rxf := s.rxf.drop 35 })) ∨
    (35 ≤ s.rxf.length ∧ (des (s.rxf.take 35)).len.toNat ≤ 32 ∧
      packetFold (des (s.rxf.take 35)) ≠ (des (s.rxf.take 35)).chk ∧
      recv s = report .rxBadChecksum (countDiscard { s with rxf := s.rxf.drop 35 })) ∨
    (35 ≤ s.rxf.length ∧ (des (s.rxf.take 35)).len.toNat ≤ 32 ∧
      packetFold (des (s.rxf.take 35)) = (des (s.rxf.take 35)).chk ∧
      recv s = report .rxOk (latch (des (s.rxf.take 35)) { s with rxf := s.rxf.drop 35 })) := by
  unfold recv level packetSize payloadMax popBytes popRest
  by_cases h : s.rxf.length < 35
  · exact .inl ⟨h, by simp [h]⟩
  · refine .inr ?_
    by_cases hl : 32 < (des (s.rxf.take 35)).len.toNat
    · exact .inl ⟨by omega, hl, by simp [h, hl]⟩
    · refine .inr ?_
      by_cases hc : packetFold (des (s.rxf.take 35)) = (des (s.rxf.take 35)).chk
      · exact .inr ⟨by omega, by omega, hc, by simp only [packetFold] at hc; simp [h, hl, hc]⟩
      · exact .inl ⟨by omega, by omega, hc, by simp only [packetFold] at hc; simp [h, hl, hc]⟩

/-- HEARTBEAT ends in one of three ways (R140). -/
theorem heartbeat_cases (s : State) :
    ((s.time - s.hbLast).toNat < 1000 ∧ heartbeat s = report .hbNotDue s) ∨
    (1000 ≤ (s.time - s.hbLast).toNat ∧ s.cfg.txDepth - s.txf.length < 35 ∧ heartbeat s = report .txBusy s) ∨
    (1000 ≤ (s.time - s.hbLast).toNat ∧ 35 ≤ s.cfg.txDepth - s.txf.length ∧
      heartbeat s = report .hbSent { enqueue (heartbeatPacket s.hbCmd s.time) s with hbLast := s.time }) := by
  unfold heartbeat hbElapsed hbPeriodMs
  by_cases h : (s.time - s.hbLast).toNat < 1000
  · exact .inl ⟨h, by simp only [h, if_true]⟩
  · by_cases hb : s.cfg.txDepth - s.txf.length < 35
    · exact .inr (.inl ⟨by omega, hb, by simp only [h, if_false]; simp [txBusy, level, packetSize, hb]⟩)
    · exact .inr (.inr ⟨by omega, by omega, by simp only [h, if_false]; simp [txBusy, level, packetSize, hb]⟩)

/-- A delivered byte is kept or lost (R150). -/
theorem deliver_cases (b : Byte) (s : State) :
    (s.rxf.length < s.cfg.rxDepth ∧ deliver b s = { s with rxf := s.rxf ++ [b] }) ∨
    (s.cfg.rxDepth ≤ s.rxf.length ∧ deliver b s = { s with rxOverflow := true }) := by
  by_cases h : s.rxf.length < s.cfg.rxDepth
  · exact .inl ⟨h, by simp [deliver, level, push, h]⟩
  · exact .inr ⟨by omega, by simp [deliver, level, h]⟩

/-- TXT takes the oldest byte, or has no step (R151). -/
theorem emit_cases (s : State) :
    (s.txf = [] ∧ emit s = s) ∨
    (∃ b rest, s.txf = b :: rest ∧ emit s = { s with txf := rest, wireOut := s.wireOut ++ [b] }) := by
  cases h : s.txf with
  | nil => exact .inl ⟨rfl, by simp [emit, level, h]⟩
  | cons b rest => exact .inr ⟨b, rest, rfl, by simp [emit, level, popRest, popBytes, h]⟩

/-- A register write changes TXP, HB_CMD or TIME and nothing else (R161). -/
theorem regWrite_frame (off : RegOffset) (v : Byte) (s : State) :
    ∃ p c t, regWrite off v s = { s with txp := p, hbCmd := c, time := t } := by
  unfold regWrite
  split
  · exact ⟨s.txp, s.hbCmd, s.time, rfl⟩
  · next r _ => cases r <;> exact ⟨_, _, _, rfl⟩

/-- What one step does, by the step scheduled. -/
theorem step_cases (s : State) :
    (s.inputs = [] ∧ step s = .next s) ∨
    (∃ h rest, s.inputs = .host h :: rest ∧ step s = exec (decode h) { s with inputs := rest }) ∨
    (∃ b rest, s.inputs = .deliver b :: rest ∧ step s = .next (deliver b { s with inputs := rest })) ∨
    (∃ rest, s.inputs = .emit :: rest ∧ step s = .next (emit { s with inputs := rest })) ∨
    (∃ rest, s.inputs = .reset :: rest ∧ step s = .next (resetStep { s with inputs := rest })) := by
  match h : s.inputs with
  | [] => exact .inl ⟨rfl, by rw [step, fetchInput_nil h]⟩
  | .host w :: rest => exact .inr (.inl ⟨w, rest, rfl, by rw [step, fetchInput_cons h]⟩)
  | .deliver b :: rest => exact .inr (.inr (.inl ⟨b, rest, rfl, by rw [step, fetchInput_cons h]⟩))
  | .emit :: rest => exact .inr (.inr (.inr (.inl ⟨rest, rfl, by rw [step, fetchInput_cons h]⟩)))
  | .reset :: rest => exact .inr (.inr (.inr (.inr ⟨rest, rfl, by rw [step, fetchInput_cons h]⟩)))

end Sys2Proof.Machine
end

