-- ==== Sys2Proof/Laws/PerInstr.lean ====
section
/-! SUPPORT. Per-instruction statements, one lemma a constructor. Family OwnRow: the word an instruction encodes to fits the
instruction's own row of the opcode table (30_encoding.md R78). -/

namespace Sys2Proof.Laws.OwnRow

def Statement (i : Instr) : Prop := (opcodeRow i).fits (encode i) = true

/-- A row that fixes bit 15 only fits a word when that bit is as the row says. -/
theorem fits_bit15 (h : RequestWord) (b : Bool) (hb : h.getLsbD 15 = b) :
    OpcodeRow.fits ⟨if b then 0x8000 else 0x0000, 0x8000⟩ h = true := by
  have hm : (0x8000 : RequestWord) = BitVec.twoPow 16 15 := by decide
  simp only [OpcodeRow.fits, beq_iff_eq]
  rw [hm, BitVec.and_twoPow, hb]
  cases b <;> rfl

/-- Bit 15 of a request word is W (R70). -/
theorem requestWord_bit15 (w : Bool) (addr : RegOffset) (data : Byte) :
    (requestWord w addr data).getLsbD 15 = w := by
  have ha := addr.isLt
  have hd := data.isLt
  simp only [requestWord, BitVec.getLsbD_ofNat, Nat.testBit_eq_decide_div_mod_eq]
  cases w
  · simp; omega
  · simp; omega

theorem nop : Statement .nop := by unfold Statement; decide
theorem chkcalc : Statement .chkcalc := by unfold Statement; decide
theorem chkverify : Statement .chkverify := by unfold Statement; decide
theorem send : Statement .send := by unfold Statement; decide
theorem recv : Statement .recv := by unfold Statement; decide
theorem heartbeat : Statement .heartbeat := by unfold Statement; decide
theorem clrflags : Statement .clrflags := by unfold Statement; decide

theorem opReserved (code : Byte) : Statement (.opReserved code) := by
  revert code; unfold Statement; decide

theorem regWrite (addr : RegOffset) (data : Byte) : Statement (.regWrite addr data) :=
  fits_bit15 _ true (requestWord_bit15 true addr data)

theorem regRead (addr : RegOffset) : Statement (.regRead addr) :=
  fits_bit15 _ false (requestWord_bit15 false addr 0x00)

end Sys2Proof.Laws.OwnRow
end

