-- ==== Sys2Proof/Laws/Run.lean ====
section
/-! SUPPORT. Runs of several steps: what one more step adds. -/

namespace Sys2Proof.Machine

@[simp] theorem run_zero (s : State) : Host.Core.run core 0 s = .next s := rfl

/-- A run whose first step answers `t` is the rest of the run from `t`. -/
theorem run_succ {s t : State} (k : Nat) (h : step s = .next t) :
    Host.Core.run core (k + 1) s = Host.Core.run core k t := by
  have h' : core.step s = .next t := h
  simp only [Host.Core.run, h']

/-- Each instruction's outcome, whatever it is, is a next state whose schedule, parameters and wire are those of `s`. -/
theorem exec_frame (i : Instr) (s : State) :
    ∃ t, exec i s = .next t ∧ t.inputs = s.inputs ∧ t.cfg = s.cfg ∧ t.wireOut = s.wireOut := by
  cases i with
  | nop => exact ⟨_, rfl, rfl, rfl, rfl⟩
  | chkcalc => exact ⟨_, rfl, rfl, rfl, rfl⟩
  | chkverify =>
    refine ⟨_, rfl, ?_⟩
    rcases chkverify_cases s with ⟨_, h⟩ | ⟨_, _, h⟩ | ⟨_, _, h⟩ <;> simp [h]
  | send =>
    refine ⟨_, rfl, ?_⟩
    rcases send_cases s with ⟨_, h⟩ | ⟨_, h⟩ <;> simp [h]
  | recv =>
    refine ⟨_, rfl, ?_⟩
    rcases recv_cases s with ⟨_, h⟩ | ⟨_, _, h⟩ | ⟨_, _, _, h⟩ | ⟨_, _, _, h⟩ <;> simp [h]
  | heartbeat =>
    refine ⟨_, rfl, ?_⟩
    rcases heartbeat_cases s with ⟨_, h⟩ | ⟨_, _, h⟩ | ⟨_, _, h⟩ <;> simp [h]
  | clrflags => exact ⟨_, rfl, rfl, rfl, rfl⟩
  | opReserved code => exact ⟨_, rfl, rfl, rfl, rfl⟩
  | regWrite addr data =>
    refine ⟨_, rfl, ?_⟩
    obtain ⟨p, c, t, h⟩ := regWrite_frame addr data s
    simp [h]
  | regRead addr => exact ⟨_, rfl, rfl, rfl, rfl⟩

end Sys2Proof.Machine
end

