-- ==== Sys2Proof/Laws/Wire.lean ====
section
/-! SUPPORT. The fields of the packets the framer builds and parses: one lemma a field, so that no later proof unfolds a
32-byte payload. -/

namespace Sys2Proof.Machine

@[simp] theorem des_cmd (bs : List Byte) : (des bs).cmd = bs.getD 0 0 := rfl
@[simp] theorem des_len (bs : List Byte) : (des bs).len = bs.getD 1 0 := rfl
@[simp] theorem des_chk (bs : List Byte) : (des bs).chk = bs.getD 34 0 := rfl

@[simp] theorem des_pay_getElem (bs : List Byte) (i : Nat) (h : i < 32) :
    (des bs).pay[i] = bs.getD (2 + i) 0 := by
  simp [des]

@[simp] theorem sendPacket_cmd (t : Packet) : (sendPacket t).cmd = t.cmd := rfl
@[simp] theorem sendPacket_len (t : Packet) : (sendPacket t).len = clampLen t.len := rfl

@[simp] theorem sendPacket_pay_getElem (t : Packet) (i : Nat) (h : i < 32) :
    (sendPacket t).pay[i] = if i < (clampLen t.len).toNat then t.pay[i] else 0 := by
  simp [sendPacket]

/-- The zero fill beyond the clamped length is not folded: SEND's checksum is that of the staged bytes. -/
theorem sendPacket_chk (t : Packet) : (sendPacket t).chk = xorFold t.cmd (clampLen t.len) t.pay.toList := by
  unfold sendPacket
  apply xorFold_congr
  apply List.ext_getElem
  · simp
  · intro i h1 h2
    simp at h1 h2 ⊢
    omega

theorem sendPacket_fold (t : Packet) : packetFold (sendPacket t) = (sendPacket t).chk := by
  simp only [packetFold, sendPacket]

@[simp] theorem heartbeatPacket_cmd (c : Byte) (t : Stamp) : (heartbeatPacket c t).cmd = c := rfl
@[simp] theorem heartbeatPacket_len (c : Byte) (t : Stamp) : (heartbeatPacket c t).len = 0x04 := rfl

@[simp] theorem heartbeatPacket_pay_getElem (c : Byte) (t : Stamp) (i : Nat) (h : i < 32) :
    (heartbeatPacket c t).pay[i] = (stampBytesBE t).getD i 0 := by
  simp [heartbeatPacket]

theorem heartbeatPacket_fold (c : Byte) (t : Stamp) :
    packetFold (heartbeatPacket c t) = (heartbeatPacket c t).chk := by
  simp only [packetFold, heartbeatPacket]

end Sys2Proof.Machine
end

