-- ==== Sys2Proof/Tests/Slice0.lean ====
section
/-! SUPPORT. The tests of the model, and one witness for each statement of Certificates/Slice0/Obligations.lean that has
hypotheses. Expected values are those of spec/95_test_vectors.md or of the rule named; none is the model's own answer. -/

namespace Sys2Proof.Tests

open Sys2Proof Sys2Proof.Machine

/-- The example parameters of 95_test_vectors.md: both depths 64, HB_CMD_RESET 0x06. -/
def cfg64 : Config := ⟨29, 29, 0x06⟩

/-- The deepest FIFOs of R9. -/
def cfg255 : Config := ⟨220, 220, 0x06⟩

/-- The reset state with the example parameters. -/
def fresh : State := State.resetWith cfg64

/-- A payload buffer that starts with `bs`. -/
def payOf (bs : List Byte) : Vector Byte 32 := Vector.ofFn fun i => bs.getD i.val 0x00

/-- `fresh` with a staging packet. -/
def staged (cmd len : Byte) (bs : List Byte) (chk : Byte) : State := { fresh with txp := ⟨cmd, len, payOf bs, chk⟩ }

/-- `fresh` with received bytes. -/
def received (bs : List Byte) : State := { fresh with rxf := bs }

/-- The state an instruction leaves. -/
def after (i : Instr) (s : State) : State :=
  match exec i s with
  | .next t => t
  | .fault _ => s
  | .refused _ => s

/-- The state a step leaves. -/
def afterStep (s : State) : State :=
  match step s with
  | .next t => t
  | .fault _ => s
  | .refused _ => s

def zeros (n : Nat) : List Byte := List.replicate n 0x00

theorem zeros_length (n : Nat) : (zeros n).length = n := List.length_replicate

/-- 00 01 .. 1F. -/
def countUp : List Byte := (List.range 32).map (BitVec.ofNat 8)

/-! ### WellFormed: each check refuses an ill-formed term -/

theorem test_opReserved_below_07_ill_formed : (Instr.opReserved 0x06).wellFormed = false := by decide
theorem test_opReserved_07_well_formed : (Instr.opReserved 0x07).wellFormed = true := by decide
theorem test_regWrite_to_opcode_ill_formed : (Instr.regWrite 0x00 0x07).wellFormed = false := by decide
theorem test_regWrite_01_well_formed : (Instr.regWrite 0x01 0x00).wellFormed = true := by decide

/-! ### Decode: words written out from R70 and R76, bit by bit `W ADDR DATA` -/

theorem test_decode_nop : decode 0b1000000000000000#16 = .nop := by decide
theorem test_decode_chkcalc : decode 0b1000000000000001#16 = .chkcalc := by decide
theorem test_decode_chkverify : decode 0b1000000000000010#16 = .chkverify := by decide
theorem test_decode_send : decode 0b1000000000000011#16 = .send := by decide
theorem test_decode_recv : decode 0b1000000000000100#16 = .recv := by decide
theorem test_decode_heartbeat : decode 0b1000000000000101#16 = .heartbeat := by decide
theorem test_decode_clrflags : decode 0b1000000000000110#16 = .clrflags := by decide
/-- W = 1, ADDR = 0000000, DATA = 00000111 and 11111111: the two ends of the reserved codes. -/
theorem test_decode_opReserved :
    decode 0b1000000000000111#16 = .opReserved 0x07 ∧ decode 0b1000000011111111#16 = .opReserved 0xFF := by decide
/-- W = 1, ADDR = 0000101 (TXP_LEN), DATA = 00100001; W = 1, ADDR = 0111111, DATA = 00000001. -/
theorem test_decode_regWrite :
    decode 0b1000010100100001#16 = .regWrite 0x05 0x21 ∧ decode 0b1011111100000001#16 = .regWrite 0x3F 0x01 := by decide
/-- W = 0, ADDR = 0000001, DATA = 10000000 ignored; W = 0, ADDR = 1011111. -/
theorem test_decode_regRead :
    decode 0b0000000110000000#16 = .regRead 0x01 ∧ decode 0b0101111100000000#16 = .regRead 0x5F := by decide
/-- The last word of the read half, and the last word of all (95 5.1). -/
theorem test_decode_ends : decode 0x7FFF = .regRead 0x7F ∧ decode 0xFFFF = .regWrite 0x7F 0xFF := by decide

theorem test_encode_words :
    encode (.regWrite 0x05 0x21) = 0x8521 ∧ encode (.regRead 0x5F) = 0x5F00 ∧ encode (.opReserved 0xFF) = 0x80FF := by decide

theorem test_decodeTableWord :
    decodeTableWord 16 0x8521 = some (.regWrite 0x05 0x21) ∧ decodeTableWord 8 0x21 = some (.regRead 0x00) ∧
    decodeTableWord 17 0x8521 = none := by decide

/-- The step after `withFetchWord` runs that word first: from reset, `recv` finds nothing (95 3.2, first row). -/
theorem test_withFetchWord_runs_first :
    ∃ t, step (State.reset.withFetchWord 16 0x8004) = .next t ∧ t.result = 0x05 ∧ t.inputs = [] := ⟨_, rfl, rfl, rfl⟩

/-! ### One or two steps an instruction, from 95_test_vectors.md -/

/-- 95 2.1. -/
theorem test_xorFold_vectors :
    xorFold 0x10 3 [0x01, 0x02, 0x03] = 0x13 ∧ xorFold 0x55 4 [0xDE, 0xAD, 0xBE, 0xEF] = 0x73 ∧
    xorFold 0x20 1 [0x07, 0xEE] = 0x26 ∧ xorFold 0xFF 32 countUp = 0xDF := by decide

/-- 95 2.2: len 0xFF folds the clamped 0x20. -/
theorem test_chkcalc_clamps :
    (after .chkcalc (staged 0x10 0xFF countUp 0x00)).resChk = 0x30 ∧
    (after .chkcalc (staged 0x10 0xFF countUp 0x00)).txp.len = 0xFF := by decide

theorem test_chkcalc_basic :
    (after .chkcalc (staged 0x10 0x03 [0x01, 0x02, 0x03] 0xAB)).resChk = 0x13 ∧
    (after .chkcalc (staged 0x10 0x03 [0x01, 0x02, 0x03] 0xAB)).result = 0x01 := by decide

/-- 95 2.3, rows 1 and 2. -/
theorem test_chkverify_match_and_mismatch :
    (after .chkverify (staged 0x10 0x03 [0x01, 0x02, 0x03] 0x13)).result = 0x02 ∧
    (after .chkverify (staged 0x10 0x03 [0x01, 0x02, 0x03] 0x12)).result = 0x03 ∧
    (after .chkverify (staged 0x10 0x03 [0x01, 0x02, 0x03] 0x12)).resChk = 0x13 := by decide

/-- 95 2.3, rows 3 and 5: 0x21 is a bad length and leaves RES_CHK, 0x20 is legal. -/
theorem test_chkverify_length_boundary :
    (after .chkverify (staged 0x10 0x21 [0x01, 0x02, 0x03] 0x13)).result = 0x04 ∧
    (after .chkverify (staged 0x10 0x21 [0x01, 0x02, 0x03] 0x13)).resChk = 0x00 ∧
    (after .chkverify (staged 0xFF 0x20 countUp 0xDF)).result = 0x02 := by decide

/-- 95 3.1, "len 0, stale data" and "TXP_CHK ignored". -/
theorem test_send_zero_fill :
    (after .send (staged 0x7E 0x00 [0xFF] 0xAB)).txf = [0x7E, 0x00] ++ zeros 32 ++ [0x7E] ∧
    (after .send (staged 0x01 0x01 [0x02] 0xAB)).txf = [0x01, 0x01, 0x02] ++ zeros 31 ++ [0x02] := by decide

/-- 95 3.1, the last two rows: 29 bytes free, 35 bytes free. -/
theorem test_send_space_boundary :
    (after .send { fresh with txf := zeros 35 }).result = 0x09 ∧ (after .send { fresh with txf := zeros 35 }).txf = zeros 35 ∧
    (after .send { fresh with txf := zeros 29 }).txf = zeros 64 := by decide

/-- 95 3.2, "good, bytes beyond len". -/
theorem test_recv_keeps_raw_bytes :
    (after .recv (received ([0x20, 0x01, 0x07, 0xEE] ++ zeros 30 ++ [0x26]))).rxp = ⟨0x20, 0x01, payOf [0x07, 0xEE], 0x26⟩ ∧
    (after .recv (received ([0x20, 0x01, 0x07, 0xEE] ++ zeros 30 ++ [0x26]))).result = 0x06 := by decide

/-- 95 3.2, "34 bytes", "bad checksum" and "bad length beats checksum". -/
theorem test_recv_outcomes :
    (after .recv (received ([0x10, 0x02, 0xAA, 0x55] ++ zeros 30))).result = 0x05 ∧
    (after .recv (received ([0x10, 0x02, 0xAA, 0x54] ++ zeros 30 ++ [0xED]))).result = 0x07 ∧
    (after .recv (received ([0x00, 0x21] ++ zeros 33))).result = 0x08 ∧
    (after .recv (received ([0x00, 0x21] ++ zeros 33))).discardCount = 0x0001 := by decide

/-- 95 3.4, TIME = 1000 and TIME = 999 from fresh. -/
theorem test_heartbeat_at_1000 :
    (after .heartbeat { fresh with time := 0x3E8 }).txf = [0x06, 0x04, 0x00, 0x00, 0x03, 0xE8] ++ zeros 28 ++ [0xE9] ∧
    (after .heartbeat { fresh with time := 0x3E8 }).hbLast = 0x3E8 ∧
    (after .heartbeat { fresh with time := 0x3E7 }).result = 0x0B := by decide

/-- 95 3.4, wrap-around steps 2 and 3. -/
theorem test_heartbeat_time_wraps :
    (after .heartbeat { fresh with time := 0x100, hbLast := 0xFFFFFF00 }).result = 0x0B ∧
    (after .heartbeat { fresh with time := 0x3E8, hbLast := 0xFFFFFF00 }).result = 0x0A := by decide

/-- 95 5.4: NOP leaves 0C. -/
theorem test_nop_keeps_result : (after .nop { fresh with result := 0x0C }).result = 0x0C := by decide

/-- 42 R163's example, and the bytes that stay in the FIFO (95 3.3). -/
theorem test_clrflags :
    (after .clrflags { fresh with rxOverflow := true, discardCount := 0x0003, rxf := zeros 29 }).rxOverflow = false ∧
    (after .clrflags { fresh with rxOverflow := true, discardCount := 0x0003, rxf := zeros 29 }).discardCount = 0x0000 ∧
    (after .clrflags { fresh with rxOverflow := true, discardCount := 0x0003, rxf := zeros 29 }).rxf = zeros 29 := by decide

/-- 42 R167's example. -/
theorem test_opReserved_illegal : after (.opReserved 0x07) fresh = { fresh with result := 0x0C } := by decide

/-- 95 5.3: TIME0 alone is rewritten, and HB_LAST ignores writes. -/
theorem test_regWrite_one_byte :
    (after (.regWrite 0x0B 0x00) { fresh with time := 0x12345678 }).time = 0x12345600 ∧
    after (.regWrite 0x0C 0x55) fresh = fresh := by decide

/-- 95 3.3: the full RX FIFO with one byte lost reads STATUS 0F and RX_LEVEL 40. -/
theorem test_regRead_status_and_level :
    (after (.regRead 0x01) { fresh with rxf := zeros 64, rxOverflow := true }).readOut = [0x0F] ∧
    (after (.regRead 0x12) { fresh with rxf := zeros 64 }).readOut = [0x40] := by decide

/-- 95 4: the byte lost at RX_DEPTH. -/
theorem test_deliver_into_full :
    (deliver 0x40 { fresh with rxf := zeros 64 }).rxOverflow = true ∧ (deliver 0x40 { fresh with rxf := zeros 64 }).rxf = zeros 64 ∧
    (deliver 0x40 { fresh with rxf := zeros 63 }).rxf = zeros 63 ++ [0x40] := by decide

/-- 95 4: the oldest byte goes first. -/
theorem test_emit_oldest :
    (emit { fresh with txf := [0x01, 0x02] }).wireOut = [0x01] ∧ (emit { fresh with txf := [0x01, 0x02] }).txf = [0x02] := by decide

/-- 95 6. -/
theorem test_reset_step :
    afterStep { fresh with rxf := zeros 3, time := 5, result := 0x0A, rxpValid := true, hbCmd := 0x77, inputs := [.reset] } =
      fresh := by decide

/-- R37: a read of OPCODE gives 00 whatever the state. -/
theorem test_regRead_opcode : (after (.regRead 0x00) (staged 0x55 0x10 [] 0x01)).readOut = [0x00] := by decide

/-! ### Assembler (R88, R89), and the request words of 95 5.3 and 95 7 -/

theorem test_assembleText_forms :
    assembleText 0 "wr TXP_CMD, 0x10 ; c\n\n rd RESULT\nwr TXP_DATA+2,3\nwr32 TIME, 0x12345678\nopr 7" =
      some [0x8410, 0x0200, 0xA203, 0x8812, 0x8934, 0x8A56, 0x8B78, 0x8007] := by decide

theorem test_assembleText_pseudo :
    assembleText 1 "ldtxp 0x10, 2, 0x01, 0x02\npoll STATUS, 1, 1\nwr OPCODE, 3\nrd16 DISCARD" =
      some [0x8410, 0x8502, 0xA001, 0xA102, 0x0100, 0x0100, 0x8003, 0x1000, 0x1100] := by decide

theorem test_assembleText_refuses :
    assembleText 0 "opr 6" = none ∧ assembleText 0 "wr TXP_CMD, 256" = none ∧ assembleText 0 "rd TXP_DATA+32" = none := by decide

theorem test_disassembleText :
    parseLine (disassembleText (.regWrite 0x3F 0x01)) = some [.wr 0x3F 0x01] ∧
    parseLine (disassembleText (.opReserved 0xFF)) = some [.opr 0xFF] ∧
    parseLine (disassembleText (.regRead 0x7F)) = some [.rd 0x7F] := by decide

theorem test_pollEnds : pollEnds 0x01 0x01 [0x06, 0x07] = true ∧ pollEnds 0x01 0x01 [0x07, 0x07] = false := by decide

/-! ### Witnesses: states and operands that meet all hypotheses of a statement together, clause by clause at the boundaries

Each is named after its statement. Where the statement is about a next state, the theorem also says which one it is. -/

/-- A schedule that starts with `x`. -/
def next (x : Input) (s : State) : State := { s with inputs := [x, .emit] }

/-- A valid packet: 95 W2, cmd 10, len 03, pay 01 02 03, chk 13. -/
def p10 : Packet := ⟨0x10, 0x03, payOf [0x01, 0x02, 0x03], 0x13⟩

/-- Both ends of both ranges of R9. -/
theorem witness_ParametersRange :
    (35 ≤ 35 ∧ 35 ≤ 255 ∧ 255 ≤ 255) ∧ cfg64.rxDepth = 64 ∧ cfg255.rxDepth = 255 ∧ (⟨0, 220, 0x00⟩ : Config).rxDepth = 35 ∧
    (⟨0, 220, 0x00⟩ : Config).txDepth = 255 := by decide

/-- ResetStepRestoresEveryElement, StepConsumesOneInputAndKeepsParameters, TransportStepsLeaveTheRegisters' premises: a reset, a TXT
step and an RXT step scheduled, with something to change. -/
theorem witness_scheduled_steps :
    (next .reset (received [0x01])).inputs = .reset :: [.emit] ∧ (afterStep (next .reset (received [0x01]))).rxf = [] ∧
    (next .emit { fresh with txf := [0x07] }).inputs = .emit :: [.emit] ∧
    (afterStep (next .emit { fresh with txf := [0x07] })).wireOut = [0x07] ∧
    (next (.deliver 0x09) fresh).inputs = .deliver 0x09 :: [.emit] ∧
    (afterStep (next (.deliver 0x09) fresh)).rxf = [0x09] := by decide

/-- StepRunsTheDecodedRequest. -/
theorem witness_StepRunsTheDecodedRequest :
    (next (.host 0x8003) fresh).inputs = .host 0x8003 :: [.emit] ∧ decode 0x8003 = .send := by decide

/-- IdleStepHoldsTheState: nothing scheduled, and a TXT step with nothing to take. -/
theorem witness_IdleStepHoldsTheState :
    (received [0x01]).inputs = [] ∧ (next .emit (received [0x01])).inputs = .emit :: [.emit] ∧
    (next .emit (received [0x01])).txf = [] := by decide

/-- StepConsumesOneInputAndKeepsParameters, ObservedBytesDoNotInfluenceAStep: a step that reads the observed bytes' fields. -/
theorem witness_ObservedBytes :
    step (next (.host 0x0100) fresh) = .next (afterStep (next (.host 0x0100) fresh)) ∧
    (afterStep (next (.host 0x0100) fresh)).readOut = [0x06] := ⟨rfl, by decide⟩

/-- EachElementHasOnlyItsListedWriters: for each element a step that changes it (R48's table, one writer each). -/
theorem witness_writers_host :
    (afterStep (next (.host 0x8401) fresh)).txp ≠ fresh.txp ∧ (afterStep (next (.host 0xBF01) fresh)).txp ≠ fresh.txp ∧
    (afterStep (next (.host 0x8801) fresh)).time ≠ fresh.time ∧ (afterStep (next (.host 0x8B01) fresh)).time ≠ fresh.time ∧
    (afterStep (next (.host 0x8701) fresh)).hbCmd ≠ fresh.hbCmd ∧
    (afterStep (next (.host 0x8001) (staged 0x10 0x00 [] 0x00))).resChk ≠ 0x00 ∧
    (afterStep (next (.host 0x8007) fresh)).result ≠ fresh.result ∧
    (afterStep (next (.host 0x8006) { fresh with discardCount := 0x0003 })).discardCount ≠ 0x0003 ∧
    (afterStep (next (.host 0x8006) { fresh with rxOverflow := true })).rxOverflow ≠ true := by decide

theorem witness_writers_framer :
    (afterStep (next (.host 0x8004) (received (ser p10)))).rxp ≠ fresh.rxp ∧
    (afterStep (next (.host 0x8004) (received (ser p10)))).rxf ≠ ser p10 ∧
    (afterStep (next (.host 0x8003) fresh)).txf ≠ fresh.txf ∧
    (afterStep (next (.host 0x8005) { fresh with time := 0x3E8 })).hbLast ≠ fresh.hbLast ∧
    step (next (.host 0x8003) fresh) = .next (afterStep (next (.host 0x8003) fresh)) :=
  ⟨by decide, by decide, by decide, by decide, rfl⟩

/-- EveryStepKeepsTheInvariant: a state no reset leaves, both FIFOs exactly full, a packet latched, and a step from it. -/
theorem witness_EveryStepKeepsTheInvariant :
    State.Inv { fresh with rxf := zeros 64, txf := zeros 64, rxp := p10, rxpValid := true, result := 0x0C } ∧
    step (next (.deliver 0x01) { fresh with rxf := zeros 64, txf := zeros 64, rxp := p10, rxpValid := true, result := 0x0C }) =
      .next (afterStep (next (.deliver 0x01)
        { fresh with rxf := zeros 64, txf := zeros 64, rxp := p10, rxpValid := true, result := 0x0C })) :=
  ⟨by decide, rfl⟩

/-- DecodeOfEncodeIsTheRequest, DisassembledLineAssemblesBack: the lowest and highest operands. -/
theorem witness_WellFormed :
    (Instr.opReserved 0x07).WellFormed ∧ (Instr.opReserved 0xFF).WellFormed ∧ (Instr.regWrite 0x01 0x00).WellFormed ∧
    (Instr.regWrite 0x7F 0xFF).WellFormed ∧ (Instr.regRead 0x00).WellFormed := by decide

/-- EncodeOfDecodeIsTheWord, DecodeTakesTheMostSpecificRow: the words where the clauses meet. -/
theorem witness_words_at_the_boundaries :
    decode 0x7FFF = .regRead 0x7F ∧ decode 0x8000 = .nop ∧ decode 0x8007 = .opReserved 0x07 ∧
    decode 0x80FF = .opReserved 0xFF ∧ decode 0x8100 = .regWrite 0x01 0x00 ∧
    (⟨0x8000#16, 0xFF00#16⟩ : OpcodeRow) ∈ opcodeRows ∧ OpcodeRow.fits ⟨0x8000#16, 0xFF00#16⟩ 0x8006 = true ∧
    (⟨0x8000#16, 0xFF00#16⟩ : OpcodeRow) ≠ opcodeRow (decode 0x8006) := by decide

/-- A state in which every register of R38 reads a value of its own. -/
def marked : State :=
  { fresh with txp := ⟨0x21, 0x22, payOf countUp, 0x23⟩, rxp := ⟨0x31, 0x32, payOf countUp.reverse, 0x33⟩, hbCmd := 0x41,
               result := 0x0A, resChk := 0x42, time := 0x12345678, hbLast := 0x9ABCDEF0, discardCount := 0x5152,
               rxf := zeros 63, txf := zeros 2 }

/-- RegReadReturnsTheMappedRegister: each clause at the ends of its range, in R38's order of offsets. -/
theorem witness_RegRead :
    ([0x00, 0x01, 0x02, 0x03, 0x04, 0x05, 0x06, 0x07, 0x08, 0x0B, 0x0C, 0x0F].map fun o => regRead o marked) =
      [0x00, 0x03, 0x0A, 0x42, 0x21, 0x22, 0x23, 0x41, 0x12, 0x78, 0x9A, 0xF0] ∧
    ([0x10, 0x11, 0x12, 0x13, 0x14, 0x15, 0x16, 0x17, 0x1F, 0x20, 0x3F, 0x40, 0x5F, 0x60, 0x7F].map fun o => regRead o marked) =
      [0x51, 0x52, 0x3F, 0x02, 0x31, 0x32, 0x33, 0x00, 0x00, 0x00, 0x1F, 0x1F, 0x00, 0x00, 0x00] := by decide

/-- LevelRegistersReadTheLevels: the deepest FIFOs, full. -/
theorem witness_LevelRegisters :
    State.FifosFit { State.resetWith cfg255 with rxf := zeros 255, txf := zeros 255 } ∧
    regRead 0x12 { State.resetWith cfg255 with rxf := zeros 255 } = 0xFF :=
  ⟨⟨Nat.le_of_eq (zeros_length 255), Nat.le_of_eq (zeros_length 255)⟩, congrArg (BitVec.ofNat 8) (zeros_length 255)⟩

/-- RegWriteStoresTheMappedRegister: each clause at the ends of its range, and one offset of each kind that takes no write. -/
theorem witness_RegWrite :
    (regWrite 0x04 0xEE marked).txp.cmd = 0xEE ∧ (regWrite 0x05 0xEE marked).txp.len = 0xEE ∧
    (regWrite 0x06 0xEE marked).txp.chk = 0xEE ∧ (regWrite 0x07 0xEE marked).hbCmd = 0xEE ∧
    (regWrite 0x08 0xEE marked).time = 0xEE345678 ∧ (regWrite 0x0B 0xEE marked).time = 0x123456EE ∧
    (regWrite 0x20 0xEE marked).txp.pay[0] = 0xEE ∧ (regWrite 0x3F 0xEE marked).txp.pay[31] = 0xEE ∧
    (∀ off ∈ ([0x01, 0x03, 0x0C, 0x16, 0x17, 0x1F, 0x40, 0x60, 0x7F] : List RegOffset),
      off.toNat ≠ 0x00 ∧ ¬ WritableOffset off ∧ regWrite off 0xEE marked = marked) := by decide

/-- WrittenRegisterReadsBackAndNoOtherChanges, ReservedOffsetsReadZeroAndIgnoreWrites: both ends of both ranges, and no offset is of
both kinds. -/
theorem witness_offset_ranges :
    WritableOffset 0x04 ∧ WritableOffset 0x0B ∧ WritableOffset 0x20 ∧ WritableOffset 0x3F ∧ ReservedOffset 0x17 ∧
    ReservedOffset 0x1F ∧ ReservedOffset 0x60 ∧ ReservedOffset 0x7F ∧
    ∀ off : RegOffset, WritableOffset off → ¬ ReservedOffset off := by decide

/-- NopChangesNothing, ReservedCodeReportsIllegalOp. -/
theorem witness_control_ops :
    (next (.host 0x8000) marked).inputs = .host 0x8000 :: [.emit] ∧ 0x07 ≤ (0x07 : Byte).toNat ∧ 0x07 ≤ (0xFF : Byte).toNat := by
  decide

/-- ResultIsVisibleToTheNextRequest: a SEND, then `rd RESULT`. -/
theorem witness_ResultIsVisible :
    { fresh with inputs := [.host 0x8003, .host 0x0200] }.inputs = .host 0x8003 :: .host 0x0200 :: [] ∧
    exec (decode 0x8003) { fresh with inputs := [.host 0x0200] } = .next (send { fresh with inputs := [.host 0x0200] }) :=
  ⟨rfl, rfl⟩

/-- XorfoldIsTheIndexedLoop, XorfoldLaws: `n` at its largest with exactly `n` bytes, a permutation, two equal bytes. -/
theorem witness_Xorfold :
    (32 : Byte).toNat ≤ 32 ∧ (32 : Byte).toNat ≤ countUp.length ∧ 7 < 8 ∧
    ([0x02, 0x01, 0x20, 0x02] : List Byte).Perm (0x20 :: 0x02 :: [0x01, 0x02].take (0x02 : Byte).toNat) ∧
    (0 < 1 ∧ 1 < (0x02 : Byte).toNat ∧ 1 < ([0x05, 0x05] : List Byte).length ∧
      ([0x05, 0x05] : List Byte).getD 0 0 = ([0x05, 0x05] : List Byte).getD 1 0) := by decide

/-- ChkcalcComputesTheClampedFold, ChkverifyAppliesValid: lengths 0, 32, 33, with a match and a mismatch at 32, and a byte at the
length itself. -/
theorem witness_Chkcalc_Chkverify :
    (staged 0x7E 0x00 [0xFF] 0x00).txp.len = 0x00 ∧ 32 < (staged 0x10 0x21 countUp 0x00).txp.len.toNat ∧
    (staged 0xFF 0x20 countUp 0xDF).txp.len.toNat ≤ 32 ∧ xorFold 0xFF 0x20 (payOf countUp).toList = 0xDF ∧
    xorFold 0xFF 0x20 (payOf countUp).toList ≠ 0xDE ∧ (staged 0x10 0x03 [0x01, 0x02, 0x03] 0x13).txp.len.toNat ≤ 3 ∧ 3 < 32 := by
  decide

/-- CodecOpsAgreeWithSendAndValid, SendEnqueuesTheBuiltPacket, SendSnapshotsTheStagingPacket: 34 and 35 bytes free, and 70 free so that
a second SEND has room. -/
theorem witness_Send_space :
    fresh.cfg.txDepth - (zeros 30).length = 34 ∧ fresh.cfg.txDepth - (zeros 29).length = 35 ∧
    35 ≤ cfg255.txDepth - ([] : List Byte).length ∧
    35 ≤ cfg255.txDepth - (after .send (State.resetWith cfg255)).txf.length := by decide

/-- OneChangedFoldedByteIsDetected, BytesBeyondTheLengthAreNotCovered: 95 W2 cases 1 and 2, at the two positions next to the length. -/
theorem witness_one_byte_changed :
    valid p10 = true ∧ (0x80 : Byte) ≠ 0x00 ∧ 2 < p10.len.toNat ∧ p10.len.toNat ≤ 3 ∧ 3 < 32 ∧
    valid { p10 with pay := p10.pay.set 1 0x82 } = false ∧ valid { p10 with pay := p10.pay.set 3 0xEE } = true := by decide

/-- SameLengthChangeHidesExactlyWhenDifferencesCancel, SwappedFoldedBytesAreNotDetected: 95 W2 case 3. -/
theorem witness_several_bytes_changed :
    valid ⟨0x10, 0x02, payOf [0x01, 0x02], 0x11⟩ = true ∧ valid ⟨0x10, 0x02, payOf [0x81, 0x82], 0x11⟩ = true ∧
    valid ⟨0x10, 0x02, payOf [0x81, 0x02], 0x11⟩ = false ∧ valid ⟨0x02, 0x01, payOf [0x01], 0x02⟩ = true ∧
    valid ⟨0x01, 0x01, payOf [0x02], 0x02⟩ = true ∧ 0 < (0x02 : Byte).toNat ∧ 1 < (0x02 : Byte).toNat := by decide

/-- LengthChangeHidesExactlyWhenItCancels: 95 W2 cases 4 and 5, and a length change that is detected. -/
theorem witness_length_changed :
    valid ⟨0x01, 0x01, payOf [0x02, 0x00, 0x02], 0x02⟩ = true ∧ (0x03 : Byte).toNat ≤ 32 ∧
    valid ⟨0x01, 0x03, payOf [0x02, 0x00, 0x02], 0x02⟩ = true ∧ valid ⟨0x01, 0x02, payOf [0x02, 0x00, 0x02], 0x02⟩ = false ∧
    (0x20 : Byte).toNat ≤ 32 ∧ 32 < (0x21 : Byte).toNat ∧ valid ⟨0x10, 0x23, payOf [0x01, 0x02, 0x03], 0x13⟩ = false := by decide

/-- Log 12: R108 case 3 as it is worded lets `len` be one of the changed bytes and is then false: cmd and len change by 01 each, the
differences cancel, and the change is detected, since the longer length folds one more byte. -/
theorem test_R108_case_3_fails_for_a_changed_length :
    valid ⟨0x01, 0x01, payOf [0x02, 0x05], 0x02⟩ = true ∧ (0x01 ^^^ 0x03) ^^^ (0x01 ^^^ 0x03) = (0x00 : Byte) ∧
    valid ⟨0x03, 0x03, payOf [0x02, 0x05], 0x02⟩ = false := by decide

/-- SerializerAndDeserializerLayout, SerializeAndDeserializeAreInverse, RecvAcceptsExactlyValidBlocks: blocks of 35 bytes. -/
theorem witness_blocks :
    (zeros 35).length = 35 ∧ (received (ser p10 ++ [0x01])).rxf = ser p10 ++ [0x01] ∧
    (after .recv (received (ser p10 ++ [0x01]))).rxp = p10 := by decide

/-- EveryEnqueuedPacketIsValid: a SEND and a HEARTBEAT that enqueue. -/
theorem witness_EveryEnqueuedPacketIsValid :
    exec .send fresh = .next (send fresh) ∧ (send fresh).txf ≠ fresh.txf ∧
    exec .heartbeat { fresh with time := 0x3E8 } = .next (heartbeat { fresh with time := 0x3E8 }) ∧
    (heartbeat { fresh with time := 0x3E8 }).txf ≠ [] := ⟨rfl, by decide, rfl, by decide⟩

/-- RecvConsumesOnePacketOrNothing, RecvLeavesLaterBytesAlone, DiscardAppliesNothingAndAcceptKeepsRawBytes: 34 and 35 bytes, lengths 33
and 32, a bad and a good checksum (95 3.2). -/
theorem witness_Recv :
    (zeros 34).length < 35 ∧ 35 ≤ (zeros 35).length ∧
    (ser ⟨0x10, 0x21, payOf [], 0x31⟩ = (received ([0x10, 0x21] ++ zeros 32 ++ [0x31])).rxf.take 35 ∧
      32 < (0x21 : Byte).toNat ∧ (after .recv (received ([0x10, 0x21] ++ zeros 32 ++ [0x31]))).result = 0x08) ∧
    (ser ⟨0x10, 0x20, payOf countUp, 0x31⟩ = (received ([0x10, 0x20] ++ countUp ++ [0x31])).rxf.take 35 ∧
      xorFold 0x10 0x20 (payOf countUp).toList ≠ 0x31 ∧
      (after .recv (received ([0x10, 0x20] ++ countUp ++ [0x31]))).result = 0x07) ∧
    (ser ⟨0x10, 0x20, payOf countUp, 0x30⟩ = (received ([0x10, 0x20] ++ countUp ++ [0x30])).rxf.take 35 ∧
      xorFold 0x10 0x20 (payOf countUp).toList = 0x30 ∧
      (after .recv (received ([0x10, 0x20] ++ countUp ++ [0x30]))).result = 0x06) := by decide

/-- The SEND of 95 W1. -/
def sender : State := { staged 0x01 0x01 [0x02] 0xAB with inputs := .host 0x8003 :: (List.replicate 35 .emit ++ []) }

/-- A receiver that is delivered that packet and then told to RECV. -/
def receiver : State := { fresh with inputs := (ser ⟨0x01, 0x01, payOf [0x02], 0x02⟩).map .deliver ++ .host 0x8004 :: [] }

/-- SentPacketIsReceived, LoopbackThroughBothStreams. -/
theorem witness_Loopback :
    exec .send sender = .next (send sender) ∧ (send sender).result = 0x01 ∧
    (send sender).txf = sender.txf ++ ser ⟨0x01, 0x01, payOf [0x02], 0x02⟩ ∧
    (received (ser ⟨0x01, 0x01, payOf [0x02], 0x02⟩)).rxf = ser ⟨0x01, 0x01, payOf [0x02], 0x02⟩ ++ [] ∧
    sender.txf = [] ∧ sender.inputs = .host 0x8003 :: (List.replicate 35 .emit ++ []) ∧ receiver.rxf = [] ∧
    receiver.inputs = (ser ⟨0x01, 0x01, payOf [0x02], 0x02⟩).map .deliver ++ .host 0x8004 :: [] :=
  ⟨rfl, by decide, by decide, by decide, rfl, rfl, rfl, rfl⟩

/-- HeartbeatIsRateLimitedAndCarriesTheTime: d = 999 and 1000, and at 1000 with 34 and 35 bytes free. -/
theorem witness_Heartbeat :
    ((0x3E7 : Stamp).toNat + 2 ^ 32 - (0 : Stamp).toNat) % 2 ^ 32 < 1000 ∧
    1000 ≤ ((0x3E8 : Stamp).toNat + 2 ^ 32 - (0 : Stamp).toNat) % 2 ^ 32 ∧
    (after .heartbeat { fresh with time := 0x3E8, txf := zeros 30 }).result = 0x09 ∧
    (after .heartbeat { fresh with time := 0x3E8, txf := zeros 29 }).result = 0x0A := by decide

/-- A heartbeat at 1000, TIME1 rewritten to 07 (TIME = 2024), and the next heartbeat. -/
def beat1 : State := { State.resetWith cfg255 with time := 0x3E8, inputs := [.host 0x8005, .host 0x8A07, .host 0x8005] }
def beat2 : State := afterStep beat1
def beat3 : State := afterStep beat2
def beat4 : State := afterStep beat3

/-- SuccessiveHeartbeatsAreAtLeastThePeriodApart, with a step in between. -/
theorem witness_SuccessiveHeartbeats :
    SendsHeartbeat beat1 beat2 ∧ QuietRun beat2 beat3 ∧ SendsHeartbeat beat3 beat4 ∧ beat3.time = 0x7E8 :=
  ⟨⟨rfl, rfl, by decide⟩, .more _ _ _ (.here _) rfl (by decide) (fun h => absurd h.1 (by decide)), ⟨rfl, rfl, by decide⟩, by decide⟩

/-- Log 13: R141 as it is worded fails for heartbeats that are not consecutive: sent at TIME 1000, at 500 (moved backwards, R140's last
corner case) and at 1500, and 1500 - 1000 is 500. -/
theorem test_R141_fails_for_heartbeats_not_consecutive :
    (after .heartbeat { fresh with time := 500, hbLast := 1000 }).result = 0x0A ∧
    (after .heartbeat { fresh with time := 1500, hbLast := 500 }).result = 0x0A ∧ 1500 - 1000 < 1000 := by decide

/-- DeliverAppendsOrOverflows, EmitPutsTheOldestByteOnTheWire, OverflowFlagIsSticky: RX_DEPTH - 1 and RX_DEPTH bytes held. -/
theorem witness_transport :
    (next (.deliver 0x40) { fresh with rxf := zeros 63 }).inputs = .deliver 0x40 :: [.emit] ∧
    (zeros 63).length < fresh.cfg.rxDepth ∧ (zeros 64).length = fresh.cfg.rxDepth ∧
    (next .emit { fresh with txf := [0x01, 0x02] }).txf = 0x01 :: [0x02] ∧
    (afterStep (next (.deliver 0x40) { fresh with rxf := zeros 64 })).rxOverflow = true ∧
    (afterStep (next (.host 0x8006) { fresh with rxOverflow := true })).rxOverflow = false ∧
    (afterStep (next (.host 0x8004) { fresh with rxOverflow := true })).rxOverflow = true := by decide

/-- WireCarriesWholePacketsInOrder: a SEND and one byte of it on the wire. -/
theorem witness_WireCarriesWholePackets :
    .reset ∉ { fresh with inputs := [.host 0x8003, .emit] }.inputs.take 2 ∧
    Host.Core.run core 2 { fresh with inputs := [.host 0x8003, .emit] } =
      .next (afterStep (afterStep { fresh with inputs := [.host 0x8003, .emit] })) := ⟨by decide, rfl⟩

/-- CheckThenActIsFreeOfRaces: exactly 35 bytes to take, exactly 35 free, one byte left to send. -/
theorem witness_CheckThenAct :
    (statusByte (received (zeros 35))).getLsbD 0 = true ∧ (statusByte { fresh with txf := zeros 29 }).getLsbD 1 = true ∧
    (next (.deliver 0x01) (received (zeros 35))).inputs = .deliver 0x01 :: [.emit] ∧
    (next .emit { fresh with txf := [0x01] }).txf.length = 1 := by decide

/-- PseudoInstructionsMoveWholeRegisters: the words of each pseudo-instruction (95 5.3). -/
theorem witness_PseudoInstructions :
    assemble 0 (.wr32Time 0x12345678) = some [0x8812, 0x8934, 0x8A56, 0x8B78] ∧
    assemble 0 .rd32Time = some [0x0800, 0x0900, 0x0A00, 0x0B00] ∧
    assemble 0 .rd32HbLast = some [0x0C00, 0x0D00, 0x0E00, 0x0F00] ∧ assemble 0 .rd16Discard = some [0x1000, 0x1100] ∧
    { fresh with inputs := [.host 0x1000, .host 0x1100, .emit] }.inputs = ([0x1000, 0x1100] : List RequestWord).map Input.host ++ [.emit] := by decide

/-- LdtxpStagesThePacket: the most data bytes a line may have, and one too many. -/
theorem witness_Ldtxp :
    countUp.length ≤ 32 ∧ assemble 0 (.ldtxp 0x10 0x20 countUp) = some (0x8410 :: 0x8520 :: wrDataWords 0 countUp) ∧
    (wrDataWords 0 countUp).getLast? = some 0xBF1F ∧ assemble 0 (.ldtxp 0x10 0x20 (0x00 :: countUp)) = none ∧
    { fresh with inputs := (0x8410 :: 0x8520 :: wrDataWords 0 countUp).map Input.host ++ [] }.inputs =
      (0x8410 :: 0x8520 :: wrDataWords 0 countUp).map Input.host ++ [] := by decide

end Sys2Proof.Tests
end

section
/-! The parameters (00_scope.md R9): the bounds of the two depths, and the configuration with given depths. -/

namespace Sys2Proof

/-- R9: RX_DEPTH holds one packet and fits in the 8-bit level register. -/
theorem Config.rxDepth_bounds (c : Config) : 35 ≤ c.rxDepth ∧ c.rxDepth ≤ 255 := by
  have hspare : c.rxSpare.val < 221 := c.rxSpare.isLt
  simp only [Config.rxDepth]
  omega

/-- R9: TX_DEPTH holds one packet and fits in the 8-bit level register. -/
theorem Config.txDepth_bounds (c : Config) : 35 ≤ c.txDepth ∧ c.txDepth ≤ 255 := by
  have hspare : c.txSpare.val < 221 := c.txSpare.isLt
  simp only [Config.txDepth]
  omega

/-- The configuration with the given depths and reset value of HB_CMD, each depth held as its excess over 35. -/
def Config.ofDepths (rx tx : Nat) (hb : Byte) (hrx : rx ≤ 255) (htx : tx ≤ 255) : Config :=
  ⟨⟨rx - 35, by omega⟩, ⟨tx - 35, by omega⟩, hb⟩

section
variable {rx tx : Nat} (hb : Byte) (hrx : rx ≤ 255) (htx : tx ≤ 255)

theorem Config.rxDepth_ofDepths (h : 35 ≤ rx) : (Config.ofDepths rx tx hb hrx htx).rxDepth = rx :=
  Nat.sub_add_cancel h

theorem Config.txDepth_ofDepths (h : 35 ≤ tx) : (Config.ofDepths rx tx hb hrx htx).txDepth = tx :=
  Nat.sub_add_cancel h

theorem Config.hbCmdReset_ofDepths : (Config.ofDepths rx tx hb hrx htx).hbCmdReset = hb := rfl

end

/-- Settles O1: the bounds are those of the two depths, and `Config.ofDepths` is the configuration asked for. -/
theorem parametersRangeExactlyAsStated : Obligations.ParametersRangeExactlyAsStated := by
  constructor
  · intro c
    exact ⟨c.rxDepth_bounds.1, c.rxDepth_bounds.2, c.txDepth_bounds⟩
  · intro rx tx hb rx_ge rx_le tx_ge tx_le
    exact ⟨Config.ofDepths rx tx hb rx_le tx_le, Config.rxDepth_ofDepths hb rx_le tx_le rx_ge,
      Config.txDepth_ofDepths hb rx_le tx_le tx_ge, Config.hbCmdReset_ofDepths hb rx_le tx_le⟩

end Sys2Proof
end

section
/-! The register map (10_state.md R38): the offset of a register, and what a register reads after a reset and after a write. -/

namespace Sys2Proof.Machine

/-- The offset R38 gives a register. -/
def Reg.offset : Reg → Nat
  | .opcode => 0x00
  | .status => 0x01
  | .result => 0x02
  | .resChk => 0x03
  | .txpCmd => 0x04
  | .txpLen => 0x05
  | .txpChk => 0x06
  | .hbCmd => 0x07
  | .time k => 0x0B - k.val
  | .hbLast k => 0x0F - k.val
  | .discardHi => 0x10
  | .discardLo => 0x11
  | .rxLevel => 0x12
  | .txLevel => 0x13
  | .rxpCmd => 0x14
  | .rxpLen => 0x15
  | .rxpChk => 0x16
  | .txpData i => 0x20 + i.val
  | .rxpPayload i => 0x40 + i.val

/-- The registers R38 marks RW. -/
def Reg.isWritable : Reg → Bool
  | .txpCmd | .txpLen | .txpChk | .hbCmd | .time _ | .txpData _ => true
  | _ => false

/-- The map sends each offset to a register that R38 puts there. -/
theorem offset_of_regAt {off : RegOffset} {r : Reg} (h : regAt off = some r) : off.toNat = r.offset := by
  have key : ∀ off : RegOffset, ∀ r ∈ regAt off, off.toNat = r.offset := by decide
  exact key off r h

/-- No two offsets name one register, and no offset two. -/
theorem reg_eq_iff_offset_eq {off off' : RegOffset} {r r' : Reg} (h : regAt off = some r) (h' : regAt off' = some r') :
    r = r' ↔ off = off' := by
  constructor
  · rintro rfl
    exact BitVec.eq_of_toNat_eq ((offset_of_regAt h).trans (offset_of_regAt h').symm)
  · rintro rfl
    exact Option.some.inj (h.symm.trans h')

theorem regAt_eq_none_iff (off : RegOffset) : regAt off = none ↔ ReservedOffset off := by
  revert off
  decide

/-- The offsets of R38's RW rows are those of the writable registers. -/
theorem regAt_of_writableOffset {off : RegOffset} (h : WritableOffset off) :
    ∃ r, regAt off = some r ∧ r.isWritable = true := by
  have key : ∀ off : RegOffset, WritableOffset off → ∃ r ∈ regAt off, r.isWritable = true := by decide
  exact key off h

theorem regRead_of_regAt {off : RegOffset} {r : Reg} (h : regAt off = some r) (s : State) :
    regRead off s = readReg r s := by
  simp only [regRead, h]

theorem regWrite_of_regAt {off : RegOffset} {r : Reg} (h : regAt off = some r) (v : Byte) (s : State) :
    regWrite off v s = writeReg r v s := by
  simp only [regWrite, h]

theorem regRead_of_reserved {off : RegOffset} (h : ReservedOffset off) (s : State) : regRead off s = 0x00 := by
  simp only [regRead, (regAt_eq_none_iff off).mpr h]

theorem regWrite_of_reserved {off : RegOffset} (h : ReservedOffset off) (v : Byte) (s : State) :
    regWrite off v s = s := by
  simp only [regWrite, (regAt_eq_none_iff off).mpr h]

theorem exec_regRead (off : RegOffset) (s : State) :
    exec (.regRead off) s = .next { s with readOut := s.readOut ++ [regRead off s] } := rfl

theorem exec_regWrite (off : RegOffset) (v : Byte) (s : State) :
    exec (.regWrite off v) s = .next (regWrite off v s) := rfl

/-! Bytes of a stamp and of the reset payload. -/

/-- The mask of byte 0 of a stamp. -/
theorem byteMask_getLsbD (j : Nat) : (0xFF : Stamp).getLsbD j = decide (j < 8) := by
  have hmask : (0xFF : Stamp) = BitVec.ofNat 32 (2 ^ 8 - 1) := rfl
  rw [hmask, BitVec.getLsbD_ofNat, Nat.testBit_two_pow_sub_one]
  simp; omega

/-- R161's `t[8k+7 : 8k] <- v`, bit by bit. -/
theorem setStampByte_getLsbD (t : Stamp) (k : Nat) (v : Byte) {b : Nat} (hb : b < 32) :
    (setStampByte t k v).getLsbD b = if b / 8 = k then v.getLsbD (b % 8) else t.getLsbD b := by
  simp only [setStampByte, BitVec.getLsbD_or, BitVec.getLsbD_and, BitVec.getLsbD_not, BitVec.getLsbD_shiftLeft,
    BitVec.getLsbD_setWidth, byteMask_getLsbD]
  rcases Nat.lt_trichotomy (b / 8) k with hlow | heq | hhigh
  · have hbelow : b < 8 * k := by omega
    simp [hbelow, hb, Nat.ne_of_lt hlow]
  · have hoffset : b - 8 * k = b % 8 := by omega
    have hwithin : ¬ b < 8 * k := by omega
    have hsmall : b % 8 < 32 := by omega
    simp [hwithin, hb, heq, hoffset, hsmall, Nat.mod_lt]
  · have habove : 8 ≤ b - 8 * k := by omega
    simp [hb, Nat.ne_of_gt hhigh, habove]

theorem stampByte_setStampByte (t : Stamp) (v : Byte) (j k : Fin 4) :
    stampByte (setStampByte t k.val v) j.val = if j = k then v else stampByte t j.val := by
  apply BitVec.eq_of_getLsbD_eq
  intro i hi
  have hdiv : (8 * j.val + i) / 8 = j.val := by omega
  have hmod : (8 * j.val + i) % 8 = i := by omega
  rw [stampByte_getLsbD _ _ _ hi, setStampByte_getLsbD _ _ _ (by omega), hdiv, hmod]
  by_cases hjk : j = k
  · simp [hjk]
  · simp [hjk, Fin.val_inj, stampByte_getLsbD _ _ _ hi]

@[simp] theorem stampByte_zero (k : Nat) : stampByte 0x00000000 k = 0x00 := by
  simp [stampByte]

@[simp] theorem Packet.zero_pay_getElem (i : Nat) (h : i < 32) : Packet.zero.pay[i] = 0x00 := by
  simp [Packet.zero]

/-! Reads after a reset and after a write. -/

theorem statusByte_resetWith (c : Config) : statusByte (State.resetWith c) = 0x06 := by
  have hspace : 35 ≤ c.txDepth := c.txDepth_bounds.1
  simp [statusByte, rxAvail, txSpace, txEmpty, State.resetWith, hspace]

/-- STATUS and HB_CMD are the only registers that do not read 0x00 after a reset (R29, R45). -/
theorem readReg_resetWith (r : Reg) (c : Config) :
    readReg r (State.resetWith c) = if r = .status then 0x06 else if r = .hbCmd then c.hbCmdReset else 0x00 := by
  cases r with
  | status => exact statusByte_resetWith c
  | time k => exact stampByte_zero k
  | hbLast k => exact stampByte_zero k
  | txpData i => exact Packet.zero_pay_getElem i i.isLt
  | rxpPayload i => exact Packet.zero_pay_getElem i i.isLt
  | discardHi => exact BitVec.extractLsb'_zero
  | discardLo => exact BitVec.extractLsb'_zero
  | _ => rfl

/-- A write of a register is read back from it and from no other (R38, R161). -/
theorem readReg_writeReg {r : Reg} (hw : r.isWritable = true) (r' : Reg) (v : Byte) (s : State) :
    readReg r' (writeReg r v s) = if r' = r then v else readReg r' s := by
  cases r with
  | time k =>
    cases r' with
    | time j => simp [readReg, writeReg, stampByte_setStampByte]
    | _ => rfl
  | txpData i =>
    cases r' with
    | txpData j => simp [readReg, writeReg, Vector.getElem_set, Fin.ext_iff, eq_comm]
    | _ => rfl
  | txpCmd => cases r' <;> rfl
  | txpLen => cases r' <;> rfl
  | txpChk => cases r' <;> rfl
  | hbCmd => cases r' <;> rfl
  | _ => simp [Reg.isWritable] at hw

/-- The same through the map: a reserved offset reads 0x00 before and after (R40). -/
theorem regRead_regWrite {off : RegOffset} (hw : WritableOffset off) (off' : RegOffset) (v : Byte) (s : State) :
    regRead off' (regWrite off v s) = if off' = off then v else regRead off' s := by
  obtain ⟨r, hr, hwr⟩ := regAt_of_writableOffset hw
  rw [regWrite_of_regAt hr]
  cases hr' : regAt off' with
  | none =>
    have hreserved := (regAt_eq_none_iff off').mp hr'
    have hne : off' ≠ off := by
      rintro rfl
      simp [hr] at hr'
    rw [regRead_of_reserved hreserved, regRead_of_reserved hreserved, if_neg hne]
  | some r' => simp only [regRead_of_regAt hr', readReg_writeReg hwr, reg_eq_iff_offset_eq hr' hr]

/-- The whole map after a reset (R29, R38, R45). -/
theorem regRead_resetWith (off : RegOffset) (c : Config) :
    regRead off (State.resetWith c) =
      if off.toNat = 0x01 then 0x06 else if off.toNat = 0x07 then c.hbCmdReset else 0x00 := by
  cases hr : regAt off with
  | none =>
    have hreserved := (regAt_eq_none_iff off).mp hr
    rw [regRead_of_reserved hreserved, if_neg (by omega), if_neg (by omega)]
  | some r =>
    have hstatus : r = .status ↔ off.toNat = 0x01 :=
      (reg_eq_iff_offset_eq hr (off' := 0x01) rfl).trans BitVec.toNat_inj.symm
    have hhbCmd : r = .hbCmd ↔ off.toNat = 0x07 :=
      (reg_eq_iff_offset_eq hr (off' := 0x07) rfl).trans BitVec.toNat_inj.symm
    simp only [regRead_of_regAt hr, readReg_resetWith, hstatus, hhbCmd]

/-! STATUS (R29) and the levels (R39). -/

theorem statusByte_toNat (s : State) :
    (statusByte s).toNat = (rxAvail s).toNat + 2 * (txSpace s).toNat + 4 * (txEmpty s).toNat + 8 * s.rxOverflow.toNat
      + 16 * s.rxpValid.toNat := by
  have h0 := (rxAvail s).toNat_le
  have h1 := (txSpace s).toNat_le
  have h2 := (txEmpty s).toNat_le
  have h3 := s.rxOverflow.toNat_le
  have h4 := s.rxpValid.toNat_le
  rw [statusByte, BitVec.toNat_ofNat]
  omega

theorem statusByte_bit3 (s : State) : (statusByte s).getLsbD 3 = s.rxOverflow := by
  have key : ∀ a b c d e : Bool,
      (BitVec.ofNat 8 (a.toNat + 2 * b.toNat + 4 * c.toNat + 8 * d.toNat + 16 * e.toNat)).getLsbD 3 = d := by decide
  exact key _ _ _ _ _

/-- A FIFO no deeper than 255 has a level that 8 bits hold (R9, R39). -/
theorem level_toNat {f : List Byte} (h : f.length ≤ 255) : (BitVec.ofNat 8 (level f)).toNat = f.length := by
  rw [BitVec.toNat_ofNat]
  exact Nat.mod_eq_of_lt (Nat.lt_succ_of_le h)

end Sys2Proof.Machine
end

section
/-! The register file's statements (10_state.md sections 5, 6, 8). -/

namespace Sys2Proof.Machine

/-- Settles O2: R45's table is `State.resetWith` field by field, and `Packet.zero` byte by byte. -/
theorem resetStateIsTheResetTable : Obligations.ResetStateIsTheResetTable :=
  ⟨⟨rfl, rfl, rfl⟩, ⟨rfl, rfl, rfl⟩,
    fun i h => ⟨Packet.zero_pay_getElem i h, Packet.zero_pay_getElem i h⟩,
    rfl, rfl, rfl, rfl, rfl, rfl, rfl, rfl, rfl, rfl⟩

/-- Settles O4, from the map's reads after a reset. -/
theorem everyOffsetReadAfterReset : Obligations.EveryOffsetReadAfterReset := by
  intro c off
  rw [exec_regRead, regRead_resetWith]
  rfl

/-- Settles O19: STATUS is `statusByte`, whose value is the sum of its bits. -/
theorem statusIsComputedFromTheState : Obligations.StatusIsComputedFromTheState := by
  refine ⟨fun s => ⟨statusByte s, rfl, ?_⟩, fun v s => rfl⟩
  rw [statusByte_toNat]
  simp only [rxAvail, txSpace, txEmpty, Bool.toNat, Bool.cond_eq_ite, decide_eq_true_eq, ge_iff_le, mul_ite, mul_one, mul_zero]

/-- Settles O20: under the invariant a level is at most the depth, which fits 8 bits. -/
theorem levelRegistersReadTheLevels : Obligations.LevelRegistersReadTheLevels := by
  intro s ⟨hrx, htx⟩
  exact ⟨⟨_, rfl, level_toNat (hrx.trans s.cfg.rxDepth_bounds.2)⟩,
    ⟨_, rfl, level_toNat (htx.trans s.cfg.txDepth_bounds.2)⟩, fun v => ⟨rfl, rfl⟩⟩

/-- Settles O22, from the read of any offset after the write of a writable one. -/
theorem writtenRegisterReadsBackAndNoOtherChanges : Obligations.WrittenRegisterReadsBackAndNoOtherChanges := by
  intro off v s hw
  refine ⟨regWrite off v s, rfl, fun off' => ⟨regRead off' s, rfl, ?_⟩⟩
  rw [exec_regRead, regRead_regWrite hw]

/-- Settles O23: the map has no register at a reserved offset. -/
theorem reservedOffsetsReadZeroAndIgnoreWrites : Obligations.ReservedOffsetsReadZeroAndIgnoreWrites := by
  intro off v s hreserved
  rw [exec_regRead, exec_regWrite, regRead_of_reserved hreserved, regWrite_of_reserved hreserved]
  exact ⟨rfl, rfl⟩

end Sys2Proof.Machine
end

section
/-! What one step can do, as a relation: every outcome of every request (42_host_access.md, 40_checksum.md, 41_framer.md), and
of every step of the total order (R60). -/

namespace Sys2Proof.Machine

/-- The outcomes of a request: one constructor an outcome, with the condition it is taken under. -/
inductive ExecEffect : Instr → State → State → Prop where
  | nop (s : State) : ExecEffect .nop s s
  | chkcalc (s : State) (c : Byte) : ExecEffect .chkcalc s (report .done { s with resChk := c })
  | verifyBadLength {s : State} (hlen : 32 < s.txp.len.toNat) : ExecEffect .chkverify s (report .verifyBadLength s)
  | verifyMatch {s : State} (hlen : s.txp.len.toNat ≤ 32) (hchk : packetFold s.txp = s.txp.chk) :
      ExecEffect .chkverify s (report .verifyMatch { s with resChk := packetFold s.txp })
  | verifyMismatch {s : State} (hlen : s.txp.len.toNat ≤ 32) (hchk : packetFold s.txp ≠ s.txp.chk) :
      ExecEffect .chkverify s (report .verifyMismatch { s with resChk := packetFold s.txp })
  | sendBusy {s : State} (hfull : s.cfg.txDepth - s.txf.length < 35) : ExecEffect .send s (report .txBusy s)
  | sendDone {s : State} (hroom : 35 ≤ s.cfg.txDepth - s.txf.length) :
      ExecEffect .send s (report .done (enqueue (sendPacket s.txp) s))
  | rxNone {s : State} (hshort : s.rxf.length < 35) : ExecEffect .recv s (report .rxNone s)
  | rxBadLength {s : State} (hlevel : 35 ≤ s.rxf.length) (hlen : 32 < (des (s.rxf.take 35)).len.toNat) :
      ExecEffect .recv s (report .rxBadLength (countDiscard { s with rxf := s.rxf.drop 35 }))
  | rxBadChecksum {s : State} (hlevel : 35 ≤ s.rxf.length) (hlen : (des (s.rxf.take 35)).len.toNat ≤ 32)
      (hchk : packetFold (des (s.rxf.take 35)) ≠ (des (s.rxf.take 35)).chk) :
      ExecEffect .recv s (report .rxBadChecksum (countDiscard { s with rxf := s.rxf.drop 35 }))
  | rxOk {s : State} (hlevel : 35 ≤ s.rxf.length) (hvalid : valid (des (s.rxf.take 35)) = true) :
      ExecEffect .recv s (report .rxOk (latch (des (s.rxf.take 35)) { s with rxf := s.rxf.drop 35 }))
  | hbNotDue {s : State} (hearly : (s.time - s.hbLast).toNat < 1000) : ExecEffect .heartbeat s (report .hbNotDue s)
  | hbBusy {s : State} (hdue : 1000 ≤ (s.time - s.hbLast).toNat) (hfull : s.cfg.txDepth - s.txf.length < 35) :
      ExecEffect .heartbeat s (report .txBusy s)
  | hbSent {s : State} (hdue : 1000 ≤ (s.time - s.hbLast).toNat) (hroom : 35 ≤ s.cfg.txDepth - s.txf.length) :
      ExecEffect .heartbeat s (report .hbSent { enqueue (heartbeatPacket s.hbCmd s.time) s with hbLast := s.time })
  | clrflags (s : State) : ExecEffect .clrflags s (report .done { s with rxOverflow := false, discardCount := 0x0000 })
  | opReserved (code : Byte) (s : State) : ExecEffect (.opReserved code) s (report .illegalOp s)
  | writeTxp {a : RegOffset} (v : Byte) (s : State) (p : Packet)
      (ha : (0x04 ≤ a.toNat ∧ a.toNat ≤ 0x06) ∨ (0x20 ≤ a.toNat ∧ a.toNat ≤ 0x3F)) :
      ExecEffect (.regWrite a v) s { s with txp := p }
  | writeHbCmd {a : RegOffset} (v : Byte) (s : State) (ha : a.toNat = 0x07) :
      ExecEffect (.regWrite a v) s { s with hbCmd := v }
  | writeTime {a : RegOffset} (v : Byte) (s : State) (u : Stamp) (ha : 0x08 ≤ a.toNat ∧ a.toNat ≤ 0x0B) :
      ExecEffect (.regWrite a v) s { s with time := u }
  | writeIgnored (a : RegOffset) (v : Byte) (s : State) : ExecEffect (.regWrite a v) s s
  | regRead (a : RegOffset) (s : State) :
      ExecEffect (.regRead a) s { s with readOut := s.readOut ++ [Machine.regRead a s] }

theorem chkverify_effect (s : State) : ExecEffect .chkverify s (chkverify s) := by
  rcases chkverify_cases s with ⟨hlen, h⟩ | ⟨hlen, hchk, h⟩ | ⟨hlen, hchk, h⟩
  · rw [h]; exact .verifyBadLength hlen
  · rw [h]; exact .verifyMatch hlen hchk
  · rw [h]; exact .verifyMismatch hlen hchk

theorem send_effect (s : State) : ExecEffect .send s (send s) := by
  rcases send_cases s with ⟨hfull, h⟩ | ⟨hroom, h⟩
  · rw [h]; exact .sendBusy hfull
  · rw [h]; exact .sendDone hroom

theorem recv_effect (s : State) : ExecEffect .recv s (recv s) := by
  rcases recv_cases s with ⟨hshort, h⟩ | ⟨hlevel, hlen, h⟩ | ⟨hlevel, hlen, hchk, h⟩ | ⟨hlevel, hlen, hchk, h⟩
  · rw [h]; exact .rxNone hshort
  · rw [h]; exact .rxBadLength hlevel hlen
  · rw [h]; exact .rxBadChecksum hlevel hlen hchk
  · rw [h]; exact .rxOk hlevel ((valid_iff _).mpr ⟨hlen, hchk⟩)

theorem heartbeat_effect (s : State) : ExecEffect .heartbeat s (heartbeat s) := by
  rcases heartbeat_cases s with ⟨hearly, h⟩ | ⟨hdue, hfull, h⟩ | ⟨hdue, hroom, h⟩
  · rw [h]; exact .hbNotDue hearly
  · rw [h]; exact .hbBusy hdue hfull
  · rw [h]; exact .hbSent hdue hroom

theorem regWrite_effect (a : RegOffset) (v : Byte) (s : State) : ExecEffect (.regWrite a v) s (regWrite a v s) := by
  cases hr : regAt a with
  | none =>
    rw [regWrite_of_reserved ((regAt_eq_none_iff a).mp hr)]
    exact .writeIgnored a v s
  | some r =>
    have hoff := offset_of_regAt hr
    rw [regWrite_of_regAt hr]
    cases r with
    | txpCmd => exact .writeTxp v s _ (.inl (by simp [hoff, Reg.offset]))
    | txpLen => exact .writeTxp v s _ (.inl (by simp [hoff, Reg.offset]))
    | txpChk => exact .writeTxp v s _ (.inl (by simp [hoff, Reg.offset]))
    | txpData i => exact .writeTxp v s _ (.inr (by simp only [hoff, Reg.offset]; omega))
    | hbCmd => exact .writeHbCmd v s hoff
    | time k => exact .writeTime v s _ (by simp only [hoff, Reg.offset]; omega)
    | _ => exact .writeIgnored a v s

/-- Every request completes with one of its outcomes (R180). -/
theorem exec_effect (i : Instr) (s : State) : ∃ t, exec i s = .next t ∧ ExecEffect i s t := by
  cases i with
  | nop => exact ⟨_, rfl, .nop s⟩
  | chkcalc => exact ⟨_, rfl, .chkcalc s _⟩
  | chkverify => exact ⟨_, rfl, chkverify_effect s⟩
  | send => exact ⟨_, rfl, send_effect s⟩
  | recv => exact ⟨_, rfl, recv_effect s⟩
  | heartbeat => exact ⟨_, rfl, heartbeat_effect s⟩
  | clrflags => exact ⟨_, rfl, .clrflags s⟩
  | opReserved code => exact ⟨_, rfl, .opReserved code s⟩
  | regWrite a v => exact ⟨_, rfl, regWrite_effect a v s⟩
  | regRead a => exact ⟨_, rfl, .regRead a s⟩

theorem effect_of_exec {i : Instr} {s t : State} (h : exec i s = .next t) : ExecEffect i s t := by
  obtain ⟨u, hu, e⟩ := exec_effect i s
  obtain rfl : u = t := Host.Outcome.next.inj (hu.symm.trans h)
  exact e

/-- The outcomes of a scheduled step, from the state in which the schedule has moved on. -/
inductive StepEffect : Input → State → State → Prop where
  | host (h : RequestWord) {s t : State} (e : ExecEffect (decode h) s t) : StepEffect (.host h) s t
  | delivered (b : Byte) {s : State} (hroom : s.rxf.length < s.cfg.rxDepth) :
      StepEffect (.deliver b) s { s with rxf := s.rxf ++ [b] }
  | lost (b : Byte) {s : State} (hfull : s.cfg.rxDepth ≤ s.rxf.length) :
      StepEffect (.deliver b) s { s with rxOverflow := true }
  | idleWire {s : State} (hempty : s.txf = []) : StepEffect .emit s s
  | emitted {s : State} (b : Byte) (rest : List Byte) (hhead : s.txf = b :: rest) :
      StepEffect .emit s { s with txf := rest, wireOut := s.wireOut ++ [b] }
  | reset (s : State) : StepEffect .reset s (resetStep s)

theorem deliver_effect (b : Byte) (s : State) : StepEffect (.deliver b) s (deliver b s) := by
  rcases deliver_cases b s with ⟨hroom, h⟩ | ⟨hfull, h⟩
  · rw [h]; exact .delivered b hroom
  · rw [h]; exact .lost b hfull

theorem emit_effect (s : State) : StepEffect .emit s (emit s) := by
  rcases emit_cases s with ⟨hempty, h⟩ | ⟨b, rest, hhead, h⟩
  · rw [h]; exact .idleWire hempty
  · rw [h]; exact .emitted b rest hhead

theorem step_of_host {s : State} {h : RequestWord} {rest : List Input} (hin : s.inputs = .host h :: rest) :
    step s = exec (decode h) { s with inputs := rest } := by
  rw [step, fetchInput_cons hin]

theorem step_of_nil {s : State} (hin : s.inputs = []) : step s = .next s := by
  rw [step, fetchInput_nil hin]

/-- A step performs the input at the head of the schedule. -/
theorem effect_of_step {s t : State} {x : Input} {rest : List Input} (hin : s.inputs = x :: rest)
    (hstep : step s = .next t) : StepEffect x { s with inputs := rest } t := by
  rw [step, fetchInput_cons hin] at hstep
  cases x with
  | host h => exact .host h (effect_of_exec hstep)
  | deliver b =>
    obtain rfl := Host.Outcome.next.inj hstep
    exact deliver_effect b _
  | emit =>
    obtain rfl := Host.Outcome.next.inj hstep
    exact emit_effect _
  | reset =>
    obtain rfl := Host.Outcome.next.inj hstep
    exact .reset _

/-- What one step can do: nothing when nothing is scheduled, else what the input at the head does. -/
theorem step_effect {s t : State} (hstep : step s = .next t) :
    (s.inputs = [] ∧ t = s) ∨ ∃ x rest, s.inputs = x :: rest ∧ StepEffect x { s with inputs := rest } t := by
  cases hin : s.inputs with
  | nil => exact .inl ⟨rfl, (Host.Outcome.next.inj ((step_of_nil hin).symm.trans hstep)).symm⟩
  | cons x rest => exact .inr ⟨x, rest, rfl, effect_of_step hin hstep⟩

section
variable {i : Instr} {x : Input} {s t : State}

theorem ExecEffect.keeps_schedule_and_parameters (e : ExecEffect i s t) : t.inputs = s.inputs ∧ t.cfg = s.cfg := by
  cases e <;> exact ⟨rfl, rfl⟩

theorem StepEffect.keeps_schedule_and_parameters (e : StepEffect x s t) : t.inputs = s.inputs ∧ t.cfg = s.cfg := by
  cases e with
  | host h e => exact e.keeps_schedule_and_parameters
  | _ => exact ⟨rfl, rfl⟩

end

end Sys2Proof.Machine
end

section
/-! The request words of R76 read back from the decoder: which word a decoded request came from. -/

namespace Sys2Proof.Machine

theorem requestWord_toNat (w : Bool) (a : RegOffset) (v : Byte) :
    (requestWord w a v).toNat = 0x8000 * w.toNat + 0x100 * a.toNat + v.toNat := by
  have hw := w.toNat_le
  rw [requestWord, BitVec.toNat_ofNat]
  omega

/-- R70: a word is its three fields. -/
theorem requestWord_fields (h : RequestWord) : requestWord (reqWrite h) (reqAddr h) (reqData h) = h := by
  apply BitVec.eq_of_toNat_eq
  rw [requestWord_toNat]
  have hw : (reqWrite h).toNat = h.toNat / 0x8000 := by
    simp only [reqWrite, BitVec.getLsbD, Nat.testBit_eq_decide_div_mod_eq]
    have := h.isLt
    by_cases hbit : h.toNat / 2 ^ 15 % 2 = 1
    · simp only [hbit, decide_true, Bool.toNat_true]; omega
    · simp only [hbit, decide_false, Bool.toNat_false]; omega
  have ha : (reqAddr h).toNat = h.toNat / 0x100 % 0x80 := by
    simp [reqAddr, Nat.shiftRight_eq_div_pow]
  have hd : (reqData h).toNat = h.toNat % 0x100 := by
    simp [reqData]
  omega

theorem encode_decodeOp (c : Byte) : encode (decodeOp c) = requestWord true 0x00 c := by
  revert c
  decide

theorem decodeOp_wellFormed (c : Byte) : (decodeOp c).WellFormed := by
  revert c
  decide

/-- R78: what the decoder can answer, row by row of its pseudocode. -/
theorem decode_cases (h : RequestWord) :
    (reqWrite h = false ∧ decode h = .regRead (reqAddr h)) ∨
    (reqWrite h = true ∧ reqAddr h ≠ 0 ∧ decode h = .regWrite (reqAddr h) (reqData h)) ∨
    (reqWrite h = true ∧ reqAddr h = 0 ∧ decode h = decodeOp (reqData h)) := by
  cases hw : reqWrite h with
  | false => exact .inl ⟨rfl, by simp [decode, hw]⟩
  | true =>
    by_cases ha : reqAddr h = 0
    · exact .inr (.inr ⟨rfl, ha, by rw [decode, hw, if_neg (by decide), if_neg (not_not.mpr ha)]⟩)
    · exact .inr (.inl ⟨rfl, ha, by rw [decode, hw, if_neg (by decide), if_pos ha]⟩)

theorem decode_wellFormed (h : RequestWord) : (decode h).WellFormed := by
  rcases decode_cases h with ⟨_, hd⟩ | ⟨_, ha, hd⟩ | ⟨_, _, hd⟩
  · rw [hd]; rfl
  · rw [hd]
    exact decide_eq_true fun h0 => ha (BitVec.eq_of_toNat_eq h0)
  · rw [hd]; exact decodeOp_wellFormed _

theorem encode_decode_of_write {h : RequestWord} (hw : reqWrite h = true) : encode (decode h) = h := by
  have hfields := requestWord_fields h
  rcases decode_cases h with ⟨hr, _⟩ | ⟨_, _, hd⟩ | ⟨_, ha, hd⟩
  · simp [hw] at hr
  · rwa [hw, ← encode, ← hd] at hfields
  · rwa [hw, ha, ← encode_decodeOp, ← hd] at hfields

/-- A request other than a read came from the word it encodes to. -/
theorem eq_encode_of_decode {h : RequestWord} {i : Instr} (hd : decode h = i) (hi : ∀ a, i ≠ .regRead a) :
    h = encode i := by
  subst hd
  cases hw : reqWrite h with
  | false => exact absurd (by simp [decode, hw]) (hi (reqAddr h))
  | true => exact (encode_decode_of_write hw).symm

theorem toNat_of_decode_regWrite {h : RequestWord} {a : RegOffset} {v : Byte} (hd : decode h = .regWrite a v) :
    h.toNat = 0x8000 + 0x100 * a.toNat + v.toNat := by
  rw [eq_encode_of_decode hd (by simp), encode, requestWord_toNat]
  rfl

end Sys2Proof.Machine
end

section
/-! Who writes what (10_state.md R48): for each element of `S`, the requests that can change it, and then the steps. -/

namespace Sys2Proof.Machine

section Requests
variable {i : Instr} {s t : State}

theorem ExecEffect.txp_writer (e : ExecEffect i s t) (hne : t.txp ≠ s.txp) :
    ∃ a v, i = .regWrite a v ∧ ((0x04 ≤ a.toNat ∧ a.toNat ≤ 0x06) ∨ (0x20 ≤ a.toNat ∧ a.toNat ≤ 0x3F)) := by
  cases e with
  | writeTxp v _ _ ha => exact ⟨_, v, rfl, ha⟩
  | _ => exact absurd rfl hne

theorem ExecEffect.rxp_writer (e : ExecEffect i s t) (hne : t.rxp ≠ s.rxp ∨ t.rxpValid ≠ s.rxpValid) :
    i = .recv ∧ t.result = 0x06 := by
  cases e with
  | rxOk => exact ⟨rfl, rfl⟩
  | _ => exact absurd hne (not_or.mpr ⟨not_not.mpr rfl, not_not.mpr rfl⟩)

theorem ExecEffect.rxf_writer (e : ExecEffect i s t) (hne : t.rxf ≠ s.rxf) :
    i = .recv ∧ 35 ≤ s.rxf.length ∧ t.rxf = s.rxf.drop 35 := by
  cases e with
  | rxBadLength hlevel | rxBadChecksum hlevel | rxOk hlevel => exact ⟨rfl, hlevel, rfl⟩
  | _ => exact absurd rfl hne

theorem ExecEffect.txf_writer (e : ExecEffect i s t) (hne : t.txf ≠ s.txf) :
    (i = .send ∨ i = .heartbeat) ∧ ∃ bs, bs.length = 35 ∧ t.txf = s.txf ++ bs := by
  cases e with
  | sendDone => exact ⟨.inl rfl, _, ser_length _, rfl⟩
  | hbSent => exact ⟨.inr rfl, _, ser_length _, rfl⟩
  | _ => exact absurd rfl hne

/-- Only an op other than NOP writes RESULT: its word is a write to OPCODE of 0x01-0xFF. -/
theorem ExecEffect.result_writer (e : ExecEffect i s t) (hi : i.WellFormed) (hne : t.result ≠ s.result) :
    (∀ a, i ≠ .regRead a) ∧ 0x8001 ≤ (encode i).toNat ∧ (encode i).toNat ≤ 0x80FF := by
  cases e with
  | nop | writeTxp | writeHbCmd | writeTime | writeIgnored | regRead => exact absurd rfl hne
  | opReserved code =>
    have hcode : 0x07 ≤ code.toNat := of_decide_eq_true hi
    refine ⟨fun a => Instr.noConfusion, ?_⟩
    rw [encode, requestWord_toNat]
    simp
    omega
  | _ => exact ⟨fun a => Instr.noConfusion, by decide⟩

theorem ExecEffect.resChk_writer (e : ExecEffect i s t) (hne : t.resChk ≠ s.resChk) :
    i = .chkcalc ∨ (i = .chkverify ∧ s.txp.len.toNat ≤ 32) ∨ (i = .send ∧ t.result = 0x01) ∨
      (i = .heartbeat ∧ t.result = 0x0A) := by
  cases e with
  | chkcalc => exact .inl rfl
  | verifyMatch hlen | verifyMismatch hlen => exact .inr (.inl ⟨rfl, hlen⟩)
  | sendDone => exact .inr (.inr (.inl ⟨rfl, rfl⟩))
  | hbSent => exact .inr (.inr (.inr ⟨rfl, rfl⟩))
  | _ => exact absurd rfl hne

theorem ExecEffect.time_writer (e : ExecEffect i s t) (hne : t.time ≠ s.time) :
    ∃ a v, i = .regWrite a v ∧ 0x08 ≤ a.toNat ∧ a.toNat ≤ 0x0B := by
  cases e with
  | writeTime v _ _ ha => exact ⟨_, v, rfl, ha⟩
  | _ => exact absurd rfl hne

theorem ExecEffect.hbCmd_writer (e : ExecEffect i s t) (hne : t.hbCmd ≠ s.hbCmd) :
    ∃ a v, i = .regWrite a v ∧ a.toNat = 0x07 := by
  cases e with
  | writeHbCmd v _ ha => exact ⟨_, v, rfl, ha⟩
  | _ => exact absurd rfl hne

theorem ExecEffect.hbLast_writer (e : ExecEffect i s t) (hne : t.hbLast ≠ s.hbLast) :
    i = .heartbeat ∧ t.result = 0x0A := by
  cases e with
  | hbSent => exact ⟨rfl, rfl⟩
  | _ => exact absurd rfl hne

theorem ExecEffect.discardCount_writer (e : ExecEffect i s t) (hne : t.discardCount ≠ s.discardCount) :
    i = .clrflags ∨ (i = .recv ∧ (t.result = 0x07 ∨ t.result = 0x08)) := by
  cases e with
  | clrflags => exact .inl rfl
  | rxBadChecksum => exact .inr ⟨rfl, .inl rfl⟩
  | rxBadLength => exact .inr ⟨rfl, .inr rfl⟩
  | _ => exact absurd rfl hne

theorem ExecEffect.rxOverflow_writer (e : ExecEffect i s t) (hne : t.rxOverflow ≠ s.rxOverflow) : i = .clrflags := by
  cases e with
  | clrflags => rfl
  | _ => exact absurd rfl hne

end Requests

section Words
variable {h : RequestWord}

theorem word_of_decode_chkcalc (hd : decode h = .chkcalc) : h = 0x8001 := eq_encode_of_decode hd (by simp)
theorem word_of_decode_chkverify (hd : decode h = .chkverify) : h = 0x8002 := eq_encode_of_decode hd (by simp)
theorem word_of_decode_send (hd : decode h = .send) : h = 0x8003 := eq_encode_of_decode hd (by simp)
theorem word_of_decode_recv (hd : decode h = .recv) : h = 0x8004 := eq_encode_of_decode hd (by simp)
theorem word_of_decode_heartbeat (hd : decode h = .heartbeat) : h = 0x8005 := eq_encode_of_decode hd (by simp)
theorem word_of_decode_clrflags (hd : decode h = .clrflags) : h = 0x8006 := eq_encode_of_decode hd (by simp)

end Words

section Steps
variable {x : Input} {s t : State}

theorem StepEffect.txp_writer (e : StepEffect x s t) (hne : t.txp ≠ s.txp) :
    x = .reset ∨ ∃ h : RequestWord, x = .host h ∧
      ((0x8400 ≤ h.toNat ∧ h.toNat ≤ 0x86FF) ∨ (0xA000 ≤ h.toNat ∧ h.toNat ≤ 0xBFFF)) := by
  cases e with
  | host h e =>
    obtain ⟨a, v, hd, ha⟩ := e.txp_writer hne
    have hword := toNat_of_decode_regWrite hd
    exact .inr ⟨h, rfl, by omega⟩
  | reset => exact .inl rfl
  | _ => exact absurd rfl hne

theorem StepEffect.rxp_writer (e : StepEffect x s t) (hne : t.rxp ≠ s.rxp ∨ t.rxpValid ≠ s.rxpValid) :
    x = .reset ∨ (x = .host 0x8004 ∧ t.result = 0x06) := by
  cases e with
  | host h e =>
    obtain ⟨hd, hres⟩ := e.rxp_writer hne
    exact .inr ⟨congrArg _ (word_of_decode_recv hd), hres⟩
  | reset => exact .inl rfl
  | _ => exact absurd hne (not_or.mpr ⟨not_not.mpr rfl, not_not.mpr rfl⟩)

theorem StepEffect.rxf_writer (e : StepEffect x s t) (hne : t.rxf ≠ s.rxf) :
    x = .reset ∨ (∃ b, x = .deliver b ∧ t.rxf = s.rxf ++ [b]) ∨
      (x = .host 0x8004 ∧ 35 ≤ s.rxf.length ∧ t.rxf = s.rxf.drop 35) := by
  cases e with
  | host h e =>
    obtain ⟨hd, hlevel, hrxf⟩ := e.rxf_writer hne
    exact .inr (.inr ⟨congrArg _ (word_of_decode_recv hd), hlevel, hrxf⟩)
  | delivered b => exact .inr (.inl ⟨b, rfl, rfl⟩)
  | reset => exact .inl rfl
  | _ => exact absurd rfl hne

theorem StepEffect.txf_writer (e : StepEffect x s t) (hne : t.txf ≠ s.txf) :
    x = .reset ∨ (x = .emit ∧ t.txf = s.txf.drop 1) ∨
      ((x = .host 0x8003 ∨ x = .host 0x8005) ∧ ∃ bs, bs.length = 35 ∧ t.txf = s.txf ++ bs) := by
  cases e with
  | host h e =>
    obtain ⟨hd, hbs⟩ := e.txf_writer hne
    exact .inr (.inr ⟨hd.imp (fun hd => congrArg _ (word_of_decode_send hd))
      (fun hd => congrArg _ (word_of_decode_heartbeat hd)), hbs⟩)
  | emitted b rest hhead => exact .inr (.inl ⟨rfl, by rw [hhead]; rfl⟩)
  | reset => exact .inl rfl
  | _ => exact absurd rfl hne

theorem StepEffect.result_writer (e : StepEffect x s t) (hne : t.result ≠ s.result) :
    x = .reset ∨ ∃ h : RequestWord, x = .host h ∧ 0x8001 ≤ h.toNat ∧ h.toNat ≤ 0x80FF := by
  cases e with
  | host h e =>
    obtain ⟨hread, hrange⟩ := e.result_writer (decode_wellFormed h) hne
    rw [← eq_encode_of_decode rfl hread] at hrange
    exact .inr ⟨h, rfl, hrange⟩
  | reset => exact .inl rfl
  | _ => exact absurd rfl hne

theorem StepEffect.resChk_writer (e : StepEffect x s t) (hne : t.resChk ≠ s.resChk) :
    x = .reset ∨ x = .host 0x8001 ∨ (x = .host 0x8002 ∧ s.txp.len.toNat ≤ 32) ∨
      (x = .host 0x8003 ∧ t.result = 0x01) ∨ (x = .host 0x8005 ∧ t.result = 0x0A) := by
  cases e with
  | host h e =>
    right
    rcases e.resChk_writer hne with hd | ⟨hd, hlen⟩ | ⟨hd, hres⟩ | ⟨hd, hres⟩
    · exact .inl (congrArg _ (word_of_decode_chkcalc hd))
    · exact .inr (.inl ⟨congrArg _ (word_of_decode_chkverify hd), hlen⟩)
    · exact .inr (.inr (.inl ⟨congrArg _ (word_of_decode_send hd), hres⟩))
    · exact .inr (.inr (.inr ⟨congrArg _ (word_of_decode_heartbeat hd), hres⟩))
  | reset => exact .inl rfl
  | _ => exact absurd rfl hne

theorem StepEffect.time_writer (e : StepEffect x s t) (hne : t.time ≠ s.time) :
    x = .reset ∨ ∃ h : RequestWord, x = .host h ∧ 0x8800 ≤ h.toNat ∧ h.toNat ≤ 0x8BFF := by
  cases e with
  | host h e =>
    obtain ⟨a, v, hd, ha⟩ := e.time_writer hne
    have hword := toNat_of_decode_regWrite hd
    exact .inr ⟨h, rfl, by omega⟩
  | reset => exact .inl rfl
  | _ => exact absurd rfl hne

theorem StepEffect.hbCmd_writer (e : StepEffect x s t) (hne : t.hbCmd ≠ s.hbCmd) :
    x = .reset ∨ ∃ h : RequestWord, x = .host h ∧ 0x8700 ≤ h.toNat ∧ h.toNat ≤ 0x87FF := by
  cases e with
  | host h e =>
    obtain ⟨a, v, hd, ha⟩ := e.hbCmd_writer hne
    have hword := toNat_of_decode_regWrite hd
    exact .inr ⟨h, rfl, by omega⟩
  | reset => exact .inl rfl
  | _ => exact absurd rfl hne

theorem StepEffect.hbLast_writer (e : StepEffect x s t) (hne : t.hbLast ≠ s.hbLast) :
    x = .reset ∨ (x = .host 0x8005 ∧ t.result = 0x0A) := by
  cases e with
  | host h e =>
    obtain ⟨hd, hres⟩ := e.hbLast_writer hne
    exact .inr ⟨congrArg _ (word_of_decode_heartbeat hd), hres⟩
  | reset => exact .inl rfl
  | _ => exact absurd rfl hne

theorem StepEffect.discardCount_writer (e : StepEffect x s t) (hne : t.discardCount ≠ s.discardCount) :
    x = .reset ∨ x = .host 0x8006 ∨ (x = .host 0x8004 ∧ (t.result = 0x07 ∨ t.result = 0x08)) := by
  cases e with
  | host h e =>
    right
    rcases e.discardCount_writer hne with hd | ⟨hd, hres⟩
    · exact .inl (congrArg _ (word_of_decode_clrflags hd))
    · exact .inr ⟨congrArg _ (word_of_decode_recv hd), hres⟩
  | reset => exact .inl rfl
  | _ => exact absurd rfl hne

theorem StepEffect.rxOverflow_writer (e : StepEffect x s t) (hne : t.rxOverflow ≠ s.rxOverflow) :
    x = .reset ∨ x = .host 0x8006 ∨ ∃ b, x = .deliver b ∧ s.cfg.rxDepth ≤ s.rxf.length := by
  cases e with
  | host h e => exact .inr (.inl (congrArg _ (word_of_decode_clrflags (e.rxOverflow_writer hne))))
  | lost b hfull => exact .inr (.inr ⟨b, rfl, hfull⟩)
  | reset => exact .inl rfl
  | _ => exact absurd rfl hne

end Steps

/-- Settles O10: the eleven rows of R48's table, each the writers of its element. -/
theorem eachElementHasOnlyItsListedWriters : Obligations.EachElementHasOnlyItsListedWriters := by
  intro s t x rest hin hstep
  have e := effect_of_step hin hstep
  exact ⟨e.txp_writer, e.rxp_writer, e.rxf_writer, e.txf_writer, e.result_writer, e.resChk_writer, e.time_writer,
    e.hbCmd_writer, e.hbLast_writer, e.discardCount_writer, e.rxOverflow_writer⟩

/-- Settles O56: STATUS bit 3 is the flag; besides the writers of O10's row, a delivery at RX_DEPTH does set it, and CLRFLAGS and
reset do clear it. -/
theorem overflowFlagIsSticky : Obligations.OverflowFlagIsSticky := by
  refine ⟨fun s => ⟨statusByte s, rfl, statusByte_bit3 s⟩, fun s t x rest hin hstep => ⟨?_, ?_, ?_⟩⟩
  · rintro ⟨b, rfl⟩ hlevel
    cases effect_of_step hin hstep with
    | delivered _ hroom => exact absurd hlevel (Nat.ne_of_lt hroom)
    | lost => rfl
  · rintro (rfl | rfl)
    · obtain rfl := Host.Outcome.next.inj ((step_of_host hin).symm.trans hstep)
      rfl
    · cases effect_of_step hin hstep with
      | reset => rfl
  · intro hclr hreset hroom
    by_contra hne
    rcases (effect_of_step hin hstep).rxOverflow_writer hne with h | h | ⟨b, hx, hfull⟩
    · exact hreset h
    · exact hclr h
    · exact absurd (hroom ⟨b, hx⟩) (Nat.not_lt.mpr hfull)

end Sys2Proof.Machine
end

section
/-! The schedule and the parameters (10_state.md R21, R22), and the invariant: FIFO depths (R27, R28), RESULT codes (R80), RXP
(R25, R26). -/

namespace Sys2Proof.Machine

/-- Settles O5. -/
theorem stepRunsTheDecodedRequest : Obligations.StepRunsTheDecodedRequest := by
  rintro s h rest _ hin rfl
  exact step_of_host hin

/-- Settles O8: an idle step changes nothing, any other takes the head of the schedule. -/
theorem stepConsumesOneInputAndKeepsParameters : Obligations.StepConsumesOneInputAndKeepsParameters := by
  intro s t hstep
  rcases step_effect hstep with ⟨hin, rfl⟩ | ⟨x, rest, hin, e⟩
  · simp [hin]
  · simpa [hin] using e.keeps_schedule_and_parameters

theorem resultByte_le (c : ResultCode) : (resultByte c).toNat ≤ 0x0C := by
  cases c <;> decide

theorem fifosFit_enqueue {s : State} (p : Packet) (h : s.FifosFit) (hroom : 35 ≤ s.cfg.txDepth - s.txf.length) :
    (enqueue p s).FifosFit := by
  obtain ⟨hrx, htx⟩ := h
  refine ⟨hrx, ?_⟩
  rw [enqueue_txf, enqueue_cfg, List.length_append, ser_length]
  omega

theorem fifosFit_drop_rxf {s : State} (n : Nat) (h : s.FifosFit) : State.FifosFit { s with rxf := s.rxf.drop n } :=
  ⟨(List.drop_sublist n s.rxf).length_le.trans h.1, h.2⟩

theorem rxpConsistent_latch (s : State) {p : Packet} (h : valid p = true) : (latch p s).RxpConsistent := h

theorem inv_resetStep (s : State) : (resetStep s).Inv :=
  ⟨⟨Nat.zero_le _, Nat.zero_le _⟩, Nat.zero_le _, rfl⟩

section
variable {i : Instr} {x : Input} {s t : State}

theorem ExecEffect.keeps_fifosFit (e : ExecEffect i s t) (h : s.FifosFit) : t.FifosFit := by
  cases e with
  | sendDone hroom | hbSent _ hroom => exact fifosFit_enqueue _ h hroom
  | rxBadLength | rxBadChecksum | rxOk => exact fifosFit_drop_rxf 35 h
  | _ => exact h

theorem ExecEffect.keeps_resultLegal (e : ExecEffect i s t) (h : s.ResultLegal) : t.ResultLegal := by
  cases e with
  | nop | writeTxp | writeHbCmd | writeTime | writeIgnored | regRead => exact h
  | _ => exact resultByte_le _

theorem ExecEffect.keeps_rxpConsistent (e : ExecEffect i s t) (h : s.RxpConsistent) : t.RxpConsistent := by
  cases e with
  | rxOk _ hvalid => exact rxpConsistent_latch s hvalid
  | _ => exact h

theorem StepEffect.keeps_inv (e : StepEffect x s t) (h : s.Inv) : t.Inv := by
  obtain ⟨hfit, hresult, hrxp⟩ := h
  cases e with
  | host h e => exact ⟨e.keeps_fifosFit hfit, e.keeps_resultLegal hresult, e.keeps_rxpConsistent hrxp⟩
  | delivered b hroom =>
    have hrx : (s.rxf ++ [b]).length ≤ s.cfg.rxDepth := by
      rw [List.length_append]
      exact hroom
    exact ⟨⟨hrx, hfit.2⟩, hresult, hrxp⟩
  | lost => exact ⟨hfit, hresult, hrxp⟩
  | idleWire => exact ⟨hfit, hresult, hrxp⟩
  | emitted b rest hhead =>
    have htx : rest.length ≤ s.cfg.txDepth := by
      have hlevel := hfit.2
      rw [hhead, List.length_cons] at hlevel
      omega
    exact ⟨⟨hfit.1, htx⟩, hresult, hrxp⟩
  | reset => exact inv_resetStep s

end

/-- Settles O11: an idle step keeps the state, and every outcome of a scheduled one keeps the invariant. -/
theorem everyStepKeepsTheInvariant : Obligations.EveryStepKeepsTheInvariant := by
  intro s t hinv hstep
  rcases step_effect hstep with ⟨_, rfl⟩ | ⟨x, rest, _, e⟩
  · exact hinv
  · exact e.keeps_inv hinv

/-- The reset state is a fixed point of the reset step. -/
theorem inv_resetWith (c : Config) : (State.resetWith c).Inv := inv_resetStep (State.resetWith c)

/-- Settles O12. -/
theorem invariantHoldsAtReset : Obligations.InvariantHoldsAtReset :=
  ⟨inv_resetWith Config.chip, inv_resetWith⟩

end Sys2Proof.Machine
end

section
/-! The observed bytes (10_state.md R47): no operation reads them, so each commutes with earlier ones put in front. -/

namespace Sys2Proof.Machine

/-- `s` after the wire has carried `w`, and the host has been returned `r`, before all that `s` records. -/
def State.observedAfter (w r : List Byte) (s : State) : State :=
  { s with wireOut := w ++ s.wireOut, readOut := r ++ s.readOut }

section
variable (w r : List Byte) (s : State)

@[simp] theorem observedAfter_txp : (s.observedAfter w r).txp = s.txp := rfl
@[simp] theorem observedAfter_rxf : (s.observedAfter w r).rxf = s.rxf := rfl
@[simp] theorem observedAfter_txf : (s.observedAfter w r).txf = s.txf := rfl
@[simp] theorem observedAfter_time : (s.observedAfter w r).time = s.time := rfl
@[simp] theorem observedAfter_hbCmd : (s.observedAfter w r).hbCmd = s.hbCmd := rfl
@[simp] theorem observedAfter_cfg : (s.observedAfter w r).cfg = s.cfg := rfl

theorem chkverify_observedAfter : chkverify (s.observedAfter w r) = (chkverify s).observedAfter w r := by
  by_cases hlen : s.txp.len.toNat > payloadMax
  · simp only [chkverify, observedAfter_txp, hlen, if_true]
    rfl
  · by_cases hchk : xorFold s.txp.cmd s.txp.len s.txp.pay.toList = s.txp.chk
    · simp only [chkverify, observedAfter_txp, hlen, hchk, if_true, if_false]
      rfl
    · simp only [chkverify, observedAfter_txp, hlen, hchk, if_false]
      rfl

@[simp] theorem enqueue_observedAfter (p : Packet) : enqueue p (s.observedAfter w r) = (enqueue p s).observedAfter w r := rfl

@[simp] theorem txBusy_observedAfter : txBusy (s.observedAfter w r) = txBusy s := rfl

theorem send_observedAfter : send (s.observedAfter w r) = (send s).observedAfter w r := by
  cases hbusy : txBusy s
  · simp only [send, txBusy_observedAfter, hbusy, Bool.false_eq_true, if_false]
    rfl
  · simp only [send, txBusy_observedAfter, hbusy, if_true]
    rfl

theorem recv_observedAfter : recv (s.observedAfter w r) = (recv s).observedAfter w r := by
  by_cases hshort : level s.rxf < packetSize
  · simp only [recv, observedAfter_rxf, hshort, if_true]
    rfl
  · by_cases hlen : (des (popBytes s.rxf packetSize)).len.toNat > payloadMax
    · simp only [recv, observedAfter_rxf, hshort, hlen, if_true, if_false]
      rfl
    · by_cases hchk : packetFold (des (popBytes s.rxf packetSize)) = (des (popBytes s.rxf packetSize)).chk
      · simp only [packetFold] at hchk
        simp only [recv, observedAfter_rxf, hshort, hlen, hchk, ne_eq, not_true_eq_false, if_false]
        rfl
      · simp only [packetFold] at hchk
        simp only [recv, observedAfter_rxf, hshort, hlen, hchk, ne_eq, not_false_eq_true, if_true, if_false]
        rfl

theorem heartbeat_observedAfter : heartbeat (s.observedAfter w r) = (heartbeat s).observedAfter w r := by
  have helapsed : hbElapsed (s.observedAfter w r) = hbElapsed s := rfl
  by_cases hearly : hbElapsed s < hbPeriodMs
  · simp only [heartbeat, helapsed, hearly, if_true]
    rfl
  · cases hbusy : txBusy s
    · simp only [heartbeat, helapsed, txBusy_observedAfter, observedAfter_hbCmd, observedAfter_time,
        enqueue_observedAfter, hearly, hbusy, Bool.false_eq_true, if_false]
      rfl
    · simp only [heartbeat, helapsed, txBusy_observedAfter, hearly, hbusy, if_true, if_false]
      rfl

theorem deliver_observedAfter (b : Byte) : deliver b (s.observedAfter w r) = (deliver b s).observedAfter w r := by
  by_cases hroom : level s.rxf < s.cfg.rxDepth
  · simp only [deliver, observedAfter_rxf, observedAfter_cfg, hroom, if_true]
    rfl
  · simp only [deliver, observedAfter_rxf, observedAfter_cfg, hroom, if_false]
    rfl

theorem emit_observedAfter : emit (s.observedAfter w r) = (emit s).observedAfter w r := by
  rcases emit_cases s with ⟨hempty, h⟩ | ⟨b, rest, hhead, h⟩
  · rw [h]
    simp [emit, level, State.observedAfter, hempty]
  · rw [h]
    simp [emit, level, popRest, popBytes, State.observedAfter, hhead]

theorem regRead_observedAfter (a : RegOffset) : regRead a (s.observedAfter w r) = regRead a s := by
  unfold regRead
  cases regAt a with
  | none => rfl
  | some q => cases q <;> rfl

theorem regWrite_observedAfter (a : RegOffset) (v : Byte) :
    regWrite a v (s.observedAfter w r) = (regWrite a v s).observedAfter w r := by
  unfold regWrite
  cases regAt a with
  | none => rfl
  | some q => cases q <;> rfl

variable {s}

/-- A request does the same after other observed bytes: what it appends goes behind them. -/
theorem exec_observedAfter {i : Instr} {t : State} (h : exec i s = .next t) :
    exec i (s.observedAfter w r) = .next (t.observedAfter w r) := by
  cases i <;> obtain rfl := Host.Outcome.next.inj h
  case chkverify => exact congrArg _ (chkverify_observedAfter w r s)
  case send => exact congrArg _ (send_observedAfter w r s)
  case recv => exact congrArg _ (recv_observedAfter w r s)
  case heartbeat => exact congrArg _ (heartbeat_observedAfter w r s)
  case regWrite a v => exact congrArg _ (regWrite_observedAfter w r s a v)
  case regRead a =>
    rw [exec_regRead, regRead_observedAfter]
    simp [State.observedAfter]
  all_goals rfl

end

/-- Settles O9: the head of the schedule is the same, and what it does commutes with the earlier observed bytes. -/
theorem observedBytesDoNotInfluenceAStep : Obligations.ObservedBytesDoNotInfluenceAStep := by
  intro s t w r hstep
  change step (s.observedAfter w r) = .next (t.observedAfter w r)
  rcases step_cases s with ⟨hin, h⟩ | ⟨q, rest, hin, h⟩ | ⟨b, rest, hin, h⟩ | ⟨rest, hin, h⟩ | ⟨rest, hin, h⟩
  · obtain rfl := Host.Outcome.next.inj (h.symm.trans hstep)
    exact step_of_nil hin
  · exact (step_of_host (s := s.observedAfter w r) hin).trans (exec_observedAfter w r (h.symm.trans hstep))
  · obtain rfl := Host.Outcome.next.inj (h.symm.trans hstep)
    rw [← deliver_observedAfter, step, fetchInput_cons (s := s.observedAfter w r) hin]
    rfl
  · obtain rfl := Host.Outcome.next.inj (h.symm.trans hstep)
    rw [← emit_observedAfter, step, fetchInput_cons (s := s.observedAfter w r) hin]
    rfl
  · obtain rfl := Host.Outcome.next.inj (h.symm.trans hstep)
    rw [step, fetchInput_cons (s := s.observedAfter w r) hin]
    rfl

end Sys2Proof.Machine
end

section
/-! The transmit stream (20_memory.md R61, 41_framer.md R121): every step but a reset extends it by whole valid packets. -/

namespace Sys2Proof.Machine

/-- The transmit stream: the bytes on the wire, then those still queued for it. -/
def State.txStream (s : State) : List Byte := s.wireOut ++ s.txf

/-- From `s` to `t` the transmit stream grows by whole valid packets. -/
def ExtendsByPackets (s t : State) : Prop :=
  ∃ ps : List Packet, (∀ p ∈ ps, valid p = true) ∧ t.txStream = s.txStream ++ ps.flatMap ser

section
variable {s t u : State}

theorem ExtendsByPackets.of_eq (h : t.txStream = s.txStream) : ExtendsByPackets s t :=
  ⟨[], by simp, by simp [h]⟩

theorem ExtendsByPackets.of_packet {p : Packet} (hp : valid p = true) (h : t.txStream = s.txStream ++ ser p) :
    ExtendsByPackets s t :=
  ⟨[p], by simp [hp], by simp [h]⟩

theorem ExtendsByPackets.trans (hst : ExtendsByPackets s t) (htu : ExtendsByPackets t u) : ExtendsByPackets s u := by
  obtain ⟨ps, hps, hgrow⟩ := hst
  obtain ⟨qs, hqs, hgrow'⟩ := htu
  refine ⟨ps ++ qs, ?_, by rw [hgrow', hgrow, List.flatMap_append, List.append_assoc]⟩
  intro p hp
  exact (List.mem_append.mp hp).elim (hps p) (hqs p)

end

theorem sendPacket_valid (p : Packet) : valid (sendPacket p) = true :=
  (valid_iff _).mpr ⟨clampLen_le p.len, sendPacket_fold p⟩

theorem heartbeatPacket_valid (c : Byte) (t : Stamp) : valid (heartbeatPacket c t) = true :=
  (valid_iff _).mpr ⟨by rw [heartbeatPacket_len]; decide, heartbeatPacket_fold c t⟩

section
variable {i : Instr} {x : Input} {s t : State}

theorem txStream_enqueue (p : Packet) (s : State) : (enqueue p s).txStream = s.txStream ++ ser p :=
  (List.append_assoc s.wireOut s.txf (ser p)).symm

/-- SEND and HEARTBEAT enqueue one valid packet or nothing; no other request touches the stream. -/
theorem ExecEffect.extendsByPackets (e : ExecEffect i s t) : ExtendsByPackets s t := by
  cases e with
  | sendDone => exact .of_packet (sendPacket_valid _) (txStream_enqueue _ s)
  | hbSent => exact .of_packet (heartbeatPacket_valid _ _) (txStream_enqueue _ s)
  | _ => exact .of_eq rfl

/-- A TXT step moves the boundary between wire and queue, not the stream; a reset alone drops queued bytes. -/
theorem StepEffect.extendsByPackets (e : StepEffect x s t) (hx : x ≠ .reset) : ExtendsByPackets s t := by
  cases e with
  | host h e => exact e.extendsByPackets
  | emitted b rest hhead => exact .of_eq (by simp [State.txStream, hhead])
  | reset => exact absurd rfl hx
  | _ => exact .of_eq rfl

theorem step_extendsByPackets (hx : s.inputs.head? ≠ some .reset) (hstep : step s = .next t) : ExtendsByPackets s t := by
  rcases step_effect hstep with ⟨_, rfl⟩ | ⟨x, rest, hin, e⟩
  · exact .of_eq rfl
  · have hne : x ≠ .reset := by
      rintro rfl
      simp [hin] at hx
    exact e.extendsByPackets hne

end

/-- R180: every step completes. -/
theorem step_completes (s : State) : ∃ t, step s = .next t := by
  rcases step_cases s with ⟨_, h⟩ | ⟨w, rest, _, h⟩ | ⟨b, rest, _, h⟩ | ⟨rest, _, h⟩ | ⟨rest, _, h⟩
  · exact ⟨_, h⟩
  · obtain ⟨t, ht, _⟩ := exec_effect (decode w) { s with inputs := rest }
    exact ⟨t, h.trans ht⟩
  · exact ⟨_, h⟩
  · exact ⟨_, h⟩
  · exact ⟨_, h⟩

/-- A run of `k + 1` steps is a step and a run of `k`. -/
theorem step_run_of_run_succ {k : Nat} {s t : State} (h : Host.Core.run core (k + 1) s = .next t) :
    ∃ u, step s = .next u ∧ Host.Core.run core k u = .next t := by
  obtain ⟨u, hu⟩ := step_completes s
  exact ⟨u, hu, (run_succ k hu).symm.trans h⟩

/-- No reset among the next `k + 1` inputs: none at the head, and none among the `k` after it. -/
theorem not_mem_take_succ {α : Type} {a : α} {l : List α} {k : Nat} (h : a ∉ l.take (k + 1)) :
    l.head? ≠ some a ∧ a ∉ l.tail.take k := by
  cases l with
  | nil => simp
  | cons b l =>
    rw [List.take_succ_cons, List.mem_cons, not_or] at h
    exact ⟨by simpa using Ne.symm h.1, h.2⟩

theorem run_extendsByPackets (k : Nat) {s t : State} (hreset : .reset ∉ s.inputs.take k)
    (hrun : Host.Core.run core k s = .next t) : ExtendsByPackets s t := by
  induction k generalizing s with
  | zero =>
    obtain rfl := Host.Outcome.next.inj hrun
    exact .of_eq rfl
  | succ k ih =>
    obtain ⟨u, hstep, hrest⟩ := step_run_of_run_succ hrun
    obtain ⟨hhead, htail⟩ := not_mem_take_succ hreset
    have hinputs : u.inputs = s.inputs.tail := (stepConsumesOneInputAndKeepsParameters s u hstep).1
    exact (step_extendsByPackets hhead hstep).trans (ih (hinputs ▸ htail) hrest)

/-- Settles O57, by induction on the number of steps: each extends the transmit stream by whole valid packets. -/
theorem wireCarriesWholePacketsInOrder : Obligations.WireCarriesWholePacketsInOrder := by
  intro k s t hreset hrun
  exact run_extendsByPackets k hreset hrun

end Sys2Proof.Machine
end

section
/-! Requests and transport steps on the register space (20_memory.md R53, R56, R62). -/

namespace Sys2Proof.Machine

/-- R62, R210: a read of RESULT at the head of the schedule returns the code RESULT holds. -/
theorem step_of_rd_result {s : State} {rest : List Input} (hin : s.inputs = .host 0x0200 :: rest) :
    step s = .next { s with inputs := rest, readOut := s.readOut ++ [s.result] } := by
  have hdecode : decode 0x0200 = .regRead 0x02 := by decide
  rw [step_of_host hin, hdecode, exec_regRead]
  rfl

/-- Settles O29: the request leaves `rd RESULT` at the head of the schedule. -/
theorem resultIsVisibleToTheNextRequest : Obligations.ResultIsVisibleToTheNextRequest := by
  intro s u h rest hin hexec
  have hinputs : u.inputs = .host 0x0200 :: rest := (effect_of_exec hexec).keeps_schedule_and_parameters.1
  rw [run_succ 1 ((step_of_host hin).trans hexec), run_succ 0 (step_of_rd_result hinputs), run_zero]

/-- R47: no register shows what earlier reads have returned. -/
theorem regRead_with_readOut (a : RegOffset) (s : State) (r : List Byte) :
    regRead a { s with readOut := r } = regRead a s := by
  cases hr : regAt a with
  | none =>
    have hreserved := (regAt_eq_none_iff a).mp hr
    rw [regRead_of_reserved hreserved, regRead_of_reserved hreserved]
  | some q =>
    rw [regRead_of_regAt hr, regRead_of_regAt hr]
    cases q <;> rfl

/-- Settles O24: a read changes the record of the values returned and nothing else. -/
theorem readsHaveNoSideEffect : Obligations.ReadsHaveNoSideEffect := by
  intro a b s
  exact ⟨_, regRead b s, exec_regRead a s, exec_regRead b s,
    by simp only [exec_regRead, regRead_with_readOut]⟩

/-- Settles O55, outcome by outcome of the two transport steps. -/
theorem transportStepsLeaveTheRegisters : Obligations.TransportStepsLeaveTheRegisters := by
  intro s t x rest hin hx hstep
  cases effect_of_step hin hstep with
  | delivered | lost | idleWire | emitted => rfl
  | host | reset => simp at hx

end Sys2Proof.Machine
end

section
/-! Format H (30_encoding.md R70-R78, R88): the three fields of a word, the decoder on them, and which row of the opcode table
fits a word. -/

namespace Sys2Proof.Machine

theorem reqAddr_toNat (h : RequestWord) : (reqAddr h).toNat = h.toNat / 0x100 % 0x80 := by
  simp [reqAddr, Nat.shiftRight_eq_div_pow]

theorem reqData_toNat (h : RequestWord) : (reqData h).toNat = h.toNat % 0x100 := by
  simp [reqData]

theorem reqWrite_requestWord (w : Bool) (a : RegOffset) (v : Byte) : reqWrite (requestWord w a v) = w :=
  Laws.OwnRow.requestWord_bit15 w a v

theorem reqAddr_requestWord (w : Bool) (a : RegOffset) (v : Byte) : reqAddr (requestWord w a v) = a := by
  apply BitVec.eq_of_toNat_eq
  rw [reqAddr_toNat, requestWord_toNat]
  omega

theorem reqData_requestWord (w : Bool) (a : RegOffset) (v : Byte) : reqData (requestWord w a v) = v := by
  apply BitVec.eq_of_toNat_eq
  rw [reqData_toNat, requestWord_toNat]
  omega

theorem toNat_eq_fields (h : RequestWord) :
    h.toNat = 0x8000 * (reqWrite h).toNat + 0x100 * (reqAddr h).toNat + (reqData h).toNat := by
  rw [← requestWord_toNat, requestWord_fields]

theorem reqWrite_eq_true_iff (h : RequestWord) : reqWrite h = true ↔ 0x8000 ≤ h.toNat := by
  have hword := toNat_eq_fields h
  cases hw : reqWrite h with
  | false =>
    rw [hw, Bool.toNat_false] at hword
    simp only [Bool.false_eq_true, false_iff]
    omega
  | true =>
    rw [hw, Bool.toNat_true] at hword
    simp only [true_iff]
    omega

theorem reqWrite_eq_false_iff (h : RequestWord) : reqWrite h = false ↔ h.toNat < 0x8000 := by
  rw [← Bool.not_eq_true, reqWrite_eq_true_iff, Nat.not_le]

/-! The decoder by the fields. -/

theorem decode_of_read {h : RequestWord} (hw : reqWrite h = false) : decode h = .regRead (reqAddr h) := by
  rw [decode, if_pos hw]

theorem decode_of_write {h : RequestWord} (hw : reqWrite h = true) (ha : reqAddr h ≠ 0) :
    decode h = .regWrite (reqAddr h) (reqData h) := by
  rw [decode, hw, if_neg (by decide), if_pos ha]

theorem decode_of_op {h : RequestWord} (hw : reqWrite h = true) (ha : reqAddr h = 0) : decode h = decodeOp (reqData h) := by
  rw [decode, hw, if_neg (by decide), if_neg (not_not.mpr ha)]

theorem decode_rdWord (a : RegOffset) : decode (rdWord a) = .regRead a := by
  rw [rdWord, decode_of_read (reqWrite_requestWord _ _ _), reqAddr_requestWord]

theorem decode_wrWord {a : RegOffset} (ha : a ≠ 0) (v : Byte) : decode (wrWord a v) = .regWrite a v := by
  have haddr : reqAddr (wrWord a v) = a := reqAddr_requestWord _ _ _
  have hdata : reqData (wrWord a v) = v := reqData_requestWord _ _ _
  have hw : reqWrite (wrWord a v) = true := reqWrite_requestWord _ _ _
  rw [decode_of_write hw (haddr.symm ▸ ha), haddr, hdata]

theorem decode_wrWord_opcode (c : Byte) : decode (wrWord 0x00 c) = decodeOp c := by
  have hdata : reqData (wrWord 0x00 c) = c := reqData_requestWord _ _ _
  have hw : reqWrite (wrWord 0x00 c) = true := reqWrite_requestWord _ _ _
  rw [decode_of_op hw (reqAddr_requestWord _ _ _), hdata]

theorem decodeOp_of_reserved {c : Byte} (hc : 0x07 ≤ c.toNat) : decodeOp c = .opReserved c := by
  revert c
  decide

/-- R78: the decoder undoes the encoder on every row. -/
theorem decode_encode {i : Instr} (hi : i.WellFormed) : decode (encode i) = i := by
  cases i with
  | opReserved code => exact (decode_wrWord_opcode code).trans (decodeOp_of_reserved (of_decide_eq_true hi))
  | regWrite a v =>
    have ha : a ≠ 0 := fun h0 => of_decide_eq_true hi (congrArg BitVec.toNat h0)
    exact decode_wrWord ha v
  | regRead a => exact decode_rdWord a
  | nop | chkcalc | chkverify | send | recv | heartbeat | clrflags => decide

/-- R71: a read is encoded with DATA 0x00. -/
theorem encode_decode_of_read {h : RequestWord} (hw : reqWrite h = false) :
    (encode (decode h)).toNat = 0x100 * (h.toNat / 0x100) := by
  have hlow := (reqWrite_eq_false_iff h).mp hw
  rw [decode_of_read hw, encode, requestWord_toNat, reqAddr_toNat]
  simp
  omega

/-! The rows of the opcode table, by the three kinds of mask. -/

theorem opcodeRow_mem (i : Instr) : opcodeRow i ∈ opcodeRows := by
  cases i <;> simp [opcodeRow, opcodeRows]

theorem fits_exact_iff (b h : RequestWord) : OpcodeRow.fits ⟨b, 0xFFFF⟩ h = true ↔ h = b := by
  have hmask : h &&& 0xFFFF = h := BitVec.and_allOnes
  rw [OpcodeRow.fits, hmask, beq_iff_eq]

theorem fits_bit15_iff (b : Bool) (h : RequestWord) :
    OpcodeRow.fits ⟨if b then 0x8000 else 0x0000, 0x8000⟩ h = true ↔ reqWrite h = b := by
  constructor
  · intro hfits
    have hbit := congrArg reqWrite (beq_iff_eq.mp hfits)
    cases b <;> simpa [reqWrite] using hbit
  · exact Laws.OwnRow.fits_bit15 h b

/-- OP_RESERVED's row fixes W and ADDR, and fits any DATA. -/
theorem write_to_opcode_of_fits {h : RequestWord} (hfits : OpcodeRow.fits ⟨0x8000, 0xFF00⟩ h = true) :
    reqWrite h = true ∧ reqAddr h = 0 := by
  have hbits : h &&& 0xFF00 = 0x8000 := beq_iff_eq.mp hfits
  constructor
  · have hw := congrArg reqWrite hbits
    simpa [reqWrite] using hw
  · have ha := congrArg reqAddr hbits
    have hmask : reqAddr h &&& 0x7F = reqAddr h := BitVec.and_allOnes
    rw [← hmask]
    simpa [reqAddr, BitVec.extractLsb'_and] using ha

theorem fits_opcodeRow_encode (i : Instr) : (opcodeRow i).fits (encode i) = true := by
  cases i with
  | opReserved code => exact Laws.OwnRow.opReserved code
  | regWrite a v => exact Laws.OwnRow.regWrite a v
  | regRead a => exact Laws.OwnRow.regRead a
  | nop | chkcalc | chkverify | send | recv | heartbeat | clrflags => decide

/-- A word fits the row it decodes to: a read by bit 15, any other as the word its request encodes to. -/
theorem fits_opcodeRow_decode (h : RequestWord) : (opcodeRow (decode h)).fits h = true := by
  cases hw : reqWrite h with
  | false =>
    rw [decode_of_read hw]
    exact (fits_bit15_iff false h).mpr hw
  | true =>
    have hfits := fits_opcodeRow_encode (decode h)
    rwa [encode_decode_of_write hw] at hfits

/-- The table's rows are the exact words, OP_RESERVED, REG_WRITE and REG_READ. -/
theorem opcodeRows_kinds : ∀ r ∈ opcodeRows,
    (r.mask = 0xFFFF ∧ r = opcodeRow (decode r.bits)) ∨ r = ⟨0x8000, 0xFF00⟩ ∨ r = ⟨0x8000, 0x8000⟩ ∨
      r = ⟨0x0000, 0x8000⟩ := by
  decide

/-- A write to OPCODE decodes to OP_RESERVED or to a row that fixes all 16 bits. -/
theorem opcodeRow_decodeOp (c : Byte) :
    opcodeRow (decodeOp c) = ⟨0x8000, 0xFF00⟩ ∨ (opcodeRow (decodeOp c)).specificity = 16 := by
  revert c
  decide

/-- R78: of the rows that fit a word, the one it decodes to has the most mask bits. -/
theorem specificity_lt_of_fits {h : RequestWord} {r : OpcodeRow} (hr : r ∈ opcodeRows) (hfits : r.fits h = true)
    (hne : r ≠ opcodeRow (decode h)) : r.specificity < (opcodeRow (decode h)).specificity := by
  have hreserved : OpcodeRow.specificity ⟨0x8000, 0xFF00⟩ = 8 := by decide
  have hwrite : OpcodeRow.specificity ⟨0x8000, 0x8000⟩ = 1 := by decide
  rcases opcodeRows_kinds r hr with ⟨hmask, hrow⟩ | rfl | rfl | rfl
  · have hword : h = r.bits := (fits_exact_iff r.bits h).mp (hmask ▸ hfits)
    exact absurd (hword ▸ hrow) hne
  · obtain ⟨hw, ha⟩ := write_to_opcode_of_fits hfits
    rw [decode_of_op hw ha] at hne ⊢
    rcases opcodeRow_decodeOp (reqData h) with hrow | hexact
    · exact absurd hrow.symm hne
    · omega
  · have hw := (fits_bit15_iff true h).mp hfits
    by_cases ha : reqAddr h = 0
    · rw [decode_of_op hw ha]
      rcases opcodeRow_decodeOp (reqData h) with hrow | hexact
      · rw [hrow]; omega
      · omega
    · rw [decode_of_write hw ha] at hne
      exact absurd rfl hne
  · rw [decode_of_read ((fits_bit15_iff false h).mp hfits)] at hne
    exact absurd rfl hne

/-! The assembler's words (R88). -/

theorem wrWord_opcode (c : Byte) : 0x8000 + c.setWidth 16 = wrWord 0x00 c := by
  revert c
  decide

end Sys2Proof.Machine
end

section
/-! The statements about Format H. -/

namespace Sys2Proof.Machine

/-- Settles O13, row by row of the encoder. -/
theorem decodeOfEncodeIsTheRequest : Obligations.DecodeOfEncodeIsTheRequest :=
  fun _ hi => decode_encode hi

/-- Settles O14: a write keeps all three fields, a read all but DATA. -/
theorem encodeOfDecodeIsTheWord : Obligations.EncodeOfDecodeIsTheWord := by
  intro h
  exact ⟨decode_wellFormed h, fun hhigh => encode_decode_of_write ((reqWrite_eq_true_iff h).mpr hhigh),
    fun hlow => encode_decode_of_read ((reqWrite_eq_false_iff h).mpr hlow)⟩

/-- Settles O15: the row and its specificity by the kind of mask, the fields by the range of the word. -/
theorem decodeTakesTheMostSpecificRow : Obligations.DecodeTakesTheMostSpecificRow := by
  intro h
  have hword := h.isLt
  have ha := reqAddr_toNat h
  have hd := reqData_toNat h
  refine ⟨opcodeRow_mem _, fits_opcodeRow_decode h, fun r => specificity_lt_of_fits, fun hlow => ?_, fun hge hle => ?_,
    fun hge => ?_⟩
  · exact ⟨_, decode_of_read ((reqWrite_eq_false_iff h).mpr hlow), by omega⟩
  · have hopcode : reqAddr h = 0 := BitVec.eq_of_toNat_eq (by rw [ha]; simp; omega)
    have hw : reqWrite h = true := (reqWrite_eq_true_iff h).mpr (by omega)
    exact ⟨_, (decode_of_op hw hopcode).trans (decodeOp_of_reserved (by omega)), hd⟩
  · have haddr : reqAddr h ≠ 0 := by
      intro h0
      rw [h0] at ha
      simp at ha
      omega
    have hw : reqWrite h = true := (reqWrite_eq_true_iff h).mpr (by omega)
    exact ⟨_, _, decode_of_write hw haddr, by omega, hd⟩

/-- Settles O16: the decoder run on the thirteen words. -/
theorem tableWordsDecode : Obligations.TableWordsDecode := by
  unfold Obligations.TableWordsDecode
  decide

/-- Settles O17: every mnemonic's word is its row's, and a reserved code passes the assembler's check on `opr`. -/
theorem disassembledLineAssemblesBack : Obligations.DisassembledLineAssemblesBack := by
  intro i n hi
  cases i with
  | opReserved code =>
    have hcode : 0x07 ≤ code.toNat := of_decide_eq_true hi
    simp only [disassemble, assemble, hcode, if_true, wrWord_opcode]
    rfl
  | _ => rfl

end Sys2Proof.Machine
end

section
/-! RESULT's writers (30_encoding.md R80, the column "written by"). -/

namespace Sys2Proof.Machine

/-- A request leaves in RESULT a code of its own row of R80. -/
theorem ExecEffect.reportsOwnCode {i : Instr} {s t : State} (e : ExecEffect i s t) : ReportsOwnCode i s t := by
  cases e with
  | verifyMatch | sendDone | rxNone | hbBusy => exact .inl rfl
  | sendBusy => exact .inr rfl
  | verifyMismatch | rxOk | hbSent => exact .inr (.inl rfl)
  | verifyBadLength | hbNotDue => exact .inr (.inr rfl)
  | rxBadChecksum => exact .inr (.inr (.inl rfl))
  | rxBadLength => exact .inr (.inr (.inr rfl))
  | _ => rfl

/-- Settles O28, outcome by outcome. -/
theorem eachRequestReportsOnlyItsCodes : Obligations.EachRequestReportsOnlyItsCodes := by
  intro i s
  obtain ⟨t, ht, e⟩ := exec_effect i s
  exact ⟨t, ht, e.reportsOwnCode⟩

end Sys2Proof.Machine
end

section
/-! The wire format (30_encoding.md R84, R85): each byte of SER and of DES. -/

namespace Sys2Proof.Machine

theorem Packet.ext_fields {p q : Packet} (hcmd : p.cmd = q.cmd) (hlen : p.len = q.len)
    (hpay : ∀ (i : Nat) (h : i < 32), p.pay[i] = q.pay[i]) (hchk : p.chk = q.chk) : p = q := by
  obtain ⟨pcmd, plen, ppay, pchk⟩ := p
  obtain rfl : pcmd = q.cmd := hcmd
  obtain rfl : plen = q.len := hlen
  obtain rfl : ppay = q.pay := Vector.ext hpay
  obtain rfl : pchk = q.chk := hchk
  rfl

section
variable (p : Packet)

theorem ser_getElem?_cmd : (ser p)[0]? = some p.cmd := rfl

theorem ser_getElem?_len : (ser p)[1]? = some p.len := rfl

theorem ser_getElem?_pay (i : Nat) (h : i < 32) : (ser p)[2 + i]? = some p.pay[i] := by
  rw [Nat.add_comm]
  simp [ser, List.getElem?_append, h]

theorem ser_getElem?_chk : (ser p)[34]? = some p.chk := by
  simp [ser]

/-- R85's law, first half: DES reads each field where SER put it. -/
theorem des_ser : des (ser p) = p := by
  apply Packet.ext_fields
  · rw [des_cmd, List.getD_eq_getElem?_getD, ser_getElem?_cmd]; rfl
  · rw [des_len, List.getD_eq_getElem?_getD, ser_getElem?_len]; rfl
  · intro i h
    rw [des_pay_getElem, List.getD_eq_getElem?_getD, ser_getElem?_pay p i h]; rfl
  · rw [des_chk, List.getD_eq_getElem?_getD, ser_getElem?_chk]; rfl

end

/-- A wire index is that of CMD, LEN, a payload byte or CHK. -/
theorem wireIndex_cases {k : Nat} (hk : k < 35) : k = 0 ∨ k = 1 ∨ (∃ i < 32, k = 2 + i) ∨ k = 34 := by
  by_cases hpay : 2 ≤ k ∧ k < 34
  · exact .inr (.inr (.inl ⟨k - 2, by omega, by omega⟩))
  · omega

section
variable {bs : List Byte} (hbs : bs.length = 35)
include hbs

theorem wireByte_eq_getD {k : Nat} (hk : k < 35) : bs[k]? = some (bs.getD k 0x00) := by
  rw [List.getD_eq_getElem?_getD, List.getElem?_eq_getElem (by omega)]
  rfl

theorem wireByte_eq_des_pay (i : Nat) (h : i < 32) : bs[2 + i]? = some (des bs).pay[i] := by
  rw [des_pay_getElem, wireByte_eq_getD hbs (by omega)]

/-- R85's law, second half: SER puts back each of the 35 bytes. -/
theorem ser_des : ser (des bs) = bs := by
  apply List.ext_getElem?
  intro k
  by_cases hk : k < 35
  · rcases wireIndex_cases hk with rfl | rfl | ⟨i, h, rfl⟩ | rfl
    · rw [ser_getElem?_cmd, des_cmd, wireByte_eq_getD hbs hk]
    · rw [ser_getElem?_len, des_len, wireByte_eq_getD hbs hk]
    · rw [ser_getElem?_pay _ i h, wireByte_eq_des_pay hbs i h]
    · rw [ser_getElem?_chk, des_chk, wireByte_eq_getD hbs hk]
  · rw [List.getElem?_eq_none (by rw [ser_length]; omega), List.getElem?_eq_none (by omega)]

end

/-- Settles O40: SER byte by byte, and DES on bytes that are all there. -/
theorem serializerAndDeserializerLayout : Obligations.SerializerAndDeserializerLayout := by
  refine ⟨fun p => ⟨ser_length p, ser_getElem?_cmd p, ser_getElem?_len p, ser_getElem?_pay p, ser_getElem?_chk p⟩, ?_⟩
  intro bs hbs
  exact ⟨wireByte_eq_getD hbs (by decide), wireByte_eq_getD hbs (by decide), wireByte_eq_des_pay hbs,
    wireByte_eq_getD hbs (by decide)⟩

/-- Settles O41: the two halves of R85's law. -/
theorem serializeAndDeserializeAreInverse : Obligations.SerializeAndDeserializeAreInverse :=
  ⟨des_ser, fun _ => ser_des⟩

end Sys2Proof.Machine
end

section
/-! Runs of register requests (30_encoding.md R88, R89): one `rd` or `wr`, then the sequences of the pseudo-instructions. -/

namespace Sys2Proof.Machine

/-- No register shows the schedule. -/
theorem regRead_with_inputs (a : RegOffset) (s : State) (xs : List Input) :
    regRead a { s with inputs := xs } = regRead a s := by
  cases hr : regAt a with
  | none =>
    have hreserved := (regAt_eq_none_iff a).mp hr
    rw [regRead_of_reserved hreserved, regRead_of_reserved hreserved]
  | some q =>
    rw [regRead_of_regAt hr, regRead_of_regAt hr]
    cases q <;> rfl

/-- The registers read as before once a request has been taken and a byte returned. -/
theorem regRead_after_rdWord (a : RegOffset) (s : State) (xs : List Input) (r : List Byte) :
    regRead a { s with inputs := xs, readOut := r } = regRead a s :=
  (regRead_with_readOut a { s with inputs := xs } r).trans (regRead_with_inputs a s xs)

section
variable {s : State} {rest : List Input}

theorem step_of_rdWord {a : RegOffset} (hin : s.inputs = .host (rdWord a) :: rest) :
    step s = .next { s with inputs := rest, readOut := s.readOut ++ [regRead a s] } := by
  rw [step_of_host hin, decode_rdWord, exec_regRead, regRead_with_inputs]

theorem step_of_wrWord {a : RegOffset} {v : Byte} (ha : a ≠ 0) (hin : s.inputs = .host (wrWord a v) :: rest) :
    step s = .next (regWrite a v { s with inputs := rest }) := by
  rw [step_of_host hin, decode_wrWord ha, exec_regWrite]

/-- Reads in a row return their registers' values in order and change nothing else. -/
theorem run_rdWords (as : List RegOffset) (hin : s.inputs = (as.map rdWord).map .host ++ rest) :
    Host.Core.run core as.length s =
      .next { s with inputs := rest, readOut := s.readOut ++ as.map fun a => regRead a s } := by
  induction as generalizing s with
  | nil =>
    have hrest : rest = s.inputs := hin.symm
    simp [hrest]
  | cons a as ih =>
    rw [List.length_cons, run_succ _ (step_of_rdWord hin), ih rfl]
    simp [regRead_after_rdWord]

end

/-! Whole registers as their bytes (R51, R52). -/

theorem stampByte_toNat (t : Stamp) (k : Nat) : (stampByte t k).toNat = t.toNat / 2 ^ (8 * k) % 256 := by
  simp [stampByte, Nat.shiftRight_eq_div_pow]

theorem valueOfReads_stampBytesBE (t : Stamp) : valueOfReads (stampBytesBE t) = t.toNat := by
  have ht := t.isLt
  simp only [valueOfReads, stampBytesBE, List.foldl, stampByte_toNat]
  omega

theorem valueOfReads_halves (d : BitVec 16) : valueOfReads [d.extractLsb' 8 8, d.extractLsb' 0 8] = d.toNat := by
  have hd := d.isLt
  simp [valueOfReads, Nat.shiftRight_eq_div_pow]
  omega

/-- Writing every byte of `v` into a stamp gives `v`. -/
theorem setStampByte_stampBytes (t v : Stamp) :
    setStampByte (setStampByte (setStampByte (setStampByte t 3 (stampByte v 3)) 2 (stampByte v 2)) 1 (stampByte v 1)) 0
      (stampByte v 0) = v := by
  apply BitVec.eq_of_getLsbD_eq
  intro b hb
  have hbyte : (stampByte v (b / 8)).getLsbD (b % 8) = v.getLsbD b := by
    rw [stampByte_getLsbD _ _ _ (by omega), Nat.div_add_mod]
  simp only [setStampByte_getLsbD _ _ _ hb]
  have hk : b / 8 = 0 ∨ b / 8 = 1 ∨ b / 8 = 2 ∨ b / 8 = 3 := by omega
  rcases hk with hk | hk | hk | hk <;> simpa [hk] using hbyte

theorem run_wr32Time {s : State} {rest : List Input} (v : Stamp)
    (hin : s.inputs = [wrWord 0x08 (stampByte v 3), wrWord 0x09 (stampByte v 2), wrWord 0x0A (stampByte v 1),
      wrWord 0x0B (stampByte v 0)].map .host ++ rest) :
    Host.Core.run core 4 s = .next { s with time := v, inputs := rest } := by
  rw [run_succ 3 (step_of_wrWord (by decide) hin), run_succ 2 (step_of_wrWord (by decide) rfl),
    run_succ 1 (step_of_wrWord (by decide) rfl), run_succ 0 (step_of_wrWord (by decide) rfl), run_zero]
  conv_rhs => rw [← setStampByte_stampBytes s.time v]
  rfl

/-- Settles O59: `wr32` is four writes, `rd32` and `rd16` are reads in a row. -/
theorem pseudoInstructionsMoveWholeRegisters : Obligations.PseudoInstructionsMoveWholeRegisters := by
  intro s n v ws rest
  refine ⟨fun hws hin => ?_, fun hws hin => ?_, fun hws hin => ?_, fun hws hin => ?_⟩ <;>
    obtain rfl := Option.some.inj hws
  · exact run_wr32Time v hin
  · exact ⟨stampBytesBE s.time, rfl, run_rdWords [0x08, 0x09, 0x0A, 0x0B] hin, valueOfReads_stampBytesBE s.time⟩
  · exact ⟨stampBytesBE s.hbLast, rfl, run_rdWords [0x0C, 0x0D, 0x0E, 0x0F] hin, valueOfReads_stampBytesBE s.hbLast⟩
  · exact ⟨_, rfl, run_rdWords [0x10, 0x11] hin, valueOfReads_halves s.discardCount⟩

/-! Staging a packet: `ldtxp`. -/

theorem regAt_txpData {i : Nat} (hi : i < 32) : regAt (BitVec.ofNat 7 (0x20 + i)) = some (.txpData ⟨i, hi⟩) := by
  have key : ∀ i : Fin 32, regAt (BitVec.ofNat 7 (0x20 + i.val)) = some (.txpData i) := by decide
  exact key ⟨i, hi⟩

theorem txpData_offset_ne_zero {i : Nat} (hi : i < 32) : BitVec.ofNat 7 (0x20 + i) ≠ 0 := by
  intro h0
  have hopcode := regAt_txpData hi
  rw [h0] at hopcode
  exact absurd hopcode (by simp [regAt])

section
variable {s : State} {rest : List Input} {v : Byte}

theorem step_of_wr_txpCmd (hin : s.inputs = .host (wrWord 0x04 v) :: rest) :
    step s = .next { s with txp := { s.txp with cmd := v }, inputs := rest } :=
  step_of_wrWord (by decide) hin

theorem step_of_wr_txpLen (hin : s.inputs = .host (wrWord 0x05 v) :: rest) :
    step s = .next { s with txp := { s.txp with len := v }, inputs := rest } :=
  step_of_wrWord (by decide) hin

theorem step_of_wr_txpData {i : Nat} (hi : i < 32)
    (hin : s.inputs = .host (wrWord (BitVec.ofNat 7 (0x20 + i)) v) :: rest) :
    step s = .next { s with txp := { s.txp with pay := s.txp.pay.set i v }, inputs := rest } := by
  rw [step_of_wrWord (txpData_offset_ne_zero hi) hin, regWrite_of_regAt (regAt_txpData hi)]
  rfl

end

/-- The writes of the data bytes from position `i` on change those payload bytes and no other. -/
theorem run_wrDataWords (data : List Byte) (i : Nat) (hroom : i + data.length ≤ 32) {s : State} {rest : List Input}
    (hin : s.inputs = (wrDataWords i data).map .host ++ rest) : ∃ pay : Vector Byte 32,
      Host.Core.run core data.length s = .next { s with txp := { s.txp with pay := pay }, inputs := rest } ∧
      ∀ (j : Nat) (h : j < 32), pay[j] = if j < i then s.txp.pay[j] else data.getD (j - i) s.txp.pay[j] := by
  induction data generalizing i s with
  | nil =>
    have hrest : rest = s.inputs := hin.symm
    exact ⟨s.txp.pay, by rw [hrest]; rfl, by simp⟩
  | cons b data ih =>
    have hroom' : i + 1 + data.length ≤ 32 := by
      rw [List.length_cons] at hroom
      omega
    have hi : i < 32 := by omega
    obtain ⟨pay, hrun, hpay⟩ := ih (i + 1) hroom'
      (s := { s with txp := { s.txp with pay := s.txp.pay.set i b }, inputs := _ }) rfl
    refine ⟨pay, (run_succ _ (step_of_wr_txpData hi hin)).trans hrun, fun j h => ?_⟩
    rw [hpay j h, Vector.getElem_set]
    rcases Nat.lt_trichotomy j i with hbefore | rfl | hafter
    · rw [if_pos (by omega), if_neg (by omega), if_pos hbefore]
    · simp
    · have hoffset : j - i = j - (i + 1) + 1 := by omega
      rw [if_neg (by omega), if_neg (by omega), if_neg (by omega), hoffset, List.getD_cons_succ]

/-- The two header writes of `ldtxp`, then the data bytes from position 0. -/
theorem run_ldtxp {s : State} {rest : List Input} (cmd len : Byte) (data : List Byte) (hlen : data.length ≤ 32)
    (hin : s.inputs = (wrWord 0x04 cmd :: wrWord 0x05 len :: wrDataWords 0 data).map .host ++ rest) :
    ∃ pay : Vector Byte 32, Host.Core.run core (2 + data.length) s =
        .next { s with txp := { s.txp with cmd := cmd, len := len, pay := pay }, inputs := rest } ∧
      ∀ (i : Nat) (h : i < 32), pay[i] = data.getD i s.txp.pay[i] := by
  rw [Nat.add_comm, run_succ _ (step_of_wr_txpCmd hin), run_succ _ (step_of_wr_txpLen rfl)]
  obtain ⟨pay, hrun, hpay⟩ := run_wrDataWords data 0 (by omega) (rest := rest)
    (s := { s with txp := { s.txp with cmd := cmd, len := len }, inputs := _ }) rfl
  exact ⟨pay, hrun, hpay⟩

/-- Settles O60: the command and the length are those written, the payload is the data over the old bytes. -/
theorem ldtxpStagesThePacket : Obligations.LdtxpStagesThePacket := by
  intro s n cmd len data ws rest hlen hws hin
  have hwords : wrWord 0x04 cmd :: wrWord 0x05 len :: wrDataWords 0 data = ws :=
    Option.some.inj ((if_pos hlen).symm.trans hws)
  subst hwords
  obtain ⟨pay, hrun, hpay⟩ := run_ldtxp cmd len data hlen hin
  exact ⟨_, hrun, rfl, rfl, rfl, rfl, hpay⟩

end Sys2Proof.Machine
end

section
/-! The XOR of a list of bytes (40_checksum.md R101), and XORFOLD as the XOR of the values it folds. -/

namespace Sys2Proof.Machine

theorem byte_xor_left_comm (a b c : Byte) : a ^^^ (b ^^^ c) = b ^^^ (a ^^^ c) := by
  rw [← BitVec.xor_assoc, BitVec.xor_comm a b, BitVec.xor_assoc]

theorem byte_xor_cancel_left (a b : Byte) : a ^^^ (a ^^^ b) = b := by
  rw [← BitVec.xor_assoc, BitVec.xor_self, BitVec.zero_xor]

/-- The XOR of the bytes of a list. -/
def xorOf (l : List Byte) : Byte := l.foldl (fun x b => x ^^^ b) 0

@[simp] theorem xorOf_nil : xorOf [] = 0 := rfl

@[simp] theorem xorOf_cons (b : Byte) (l : List Byte) : xorOf (b :: l) = b ^^^ xorOf l := foldl_xor_cons 0 b l

theorem foldl_xor_eq_xorOf (a : Byte) (l : List Byte) : l.foldl (fun x b => x ^^^ b) a = a ^^^ xorOf l :=
  foldl_xor_zero a l

/-- A loop that folds in `f a` for each `a`, as the XOR of those bytes. -/
theorem foldl_xor_map {α : Type} (f : α → Byte) (c : Byte) (l : List α) :
    l.foldl (fun x a => x ^^^ f a) c = c ^^^ xorOf (l.map f) := by
  rw [← foldl_xor_eq_xorOf, List.foldl_map]

theorem xorOf_append (l m : List Byte) : xorOf (l ++ m) = xorOf l ^^^ xorOf m := by
  rw [xorOf, List.foldl_append, foldl_xor_eq_xorOf]
  rfl

/-- R101 law 3: the order of the bytes does not matter. -/
theorem xorOf_perm {l m : List Byte} (h : l.Perm m) : xorOf l = xorOf m := by
  induction h with
  | nil => rfl
  | cons b _ ih => rw [xorOf_cons, xorOf_cons, ih]
  | swap a b l => simp only [xorOf_cons, byte_xor_left_comm]
  | trans _ _ ih ih' => rw [ih, ih']

/-- R101 law 2: a bit of the XOR is the parity of that bit over the bytes. -/
theorem xorOf_getLsbD_iff (l : List Byte) (k : Nat) :
    (xorOf l).getLsbD k = true ↔ (l.countP fun b => b.getLsbD k) % 2 = 1 := by
  induction l with
  | nil => simp
  | cons b l ih =>
    rw [xorOf_cons, BitVec.getLsbD_xor, List.countP_cons]
    cases hb : b.getLsbD k
    · simpa using ih
    · cases hl : (xorOf l).getLsbD k <;> simp [hl] at ih ⊢ <;> omega

theorem xorOf_eraseIdx {l : List Byte} {i : Nat} (h : i < l.length) : xorOf (l.eraseIdx i) = l[i] ^^^ xorOf l := by
  rw [← xorOf_perm (List.getElem_cons_eraseIdx_perm h), xorOf_cons, byte_xor_cancel_left]

theorem xorOf_set {l : List Byte} {i : Nat} (h : i < l.length) (b : Byte) :
    xorOf (l.set i b) = xorOf l ^^^ (l[i] ^^^ b) := by
  rw [xorOf_perm (List.set_perm_cons_eraseIdx h b), xorOf_cons, xorOf_eraseIdx h]
  ac_rfl

theorem xorOf_map_xor {α : Type} (f g : α → Byte) (l : List α) :
    xorOf (l.map fun a => f a ^^^ g a) = xorOf (l.map f) ^^^ xorOf (l.map g) := by
  induction l with
  | nil => simp
  | cons a l ih =>
    simp only [List.map_cons, xorOf_cons, ih]
    ac_rfl

/-- Taking more bytes adds those between the two ends. -/
theorem xorOf_take_of_le (l : List Byte) {a b : Nat} (h : a ≤ b) :
    xorOf (l.take b) = xorOf (l.take a) ^^^ xorOf ((l.take b).drop a) := by
  have hsplit : l.take a ++ (l.take b).drop a = l.take b := by
    simpa [List.take_take, Nat.min_eq_left h] using List.take_append_drop a (l.take b)
  rw [← xorOf_append, hsplit]

/-- The first `a` and the first `b` bytes differ by the bytes between the two ends. -/
theorem xorOf_take_xor_take (l : List Byte) (a b : Nat) :
    xorOf (l.take a) ^^^ xorOf (l.take b) = xorOf ((l.take (max a b)).drop (min a b)) := by
  rcases Nat.le_total a b with h | h
  · rw [Nat.max_eq_right h, Nat.min_eq_left h, xorOf_take_of_le l h, byte_xor_cancel_left]
  · rw [Nat.max_eq_left h, Nat.min_eq_right h, BitVec.xor_comm, xorOf_take_of_le l h, byte_xor_cancel_left]

/-- The first `n` bytes, one index at a time. -/
theorem map_getD_range {n : Nat} {p : List Byte} (h : n ≤ p.length) :
    (List.range n).map (fun i => p.getD i 0) = p.take n := by
  apply List.ext_getElem
  · simp [h]
  · intro i hi hi'
    have hip : i < p.length := by simp at hi; omega
    simp [hip]

theorem xorFold_eq_xorOf (cmd n : Byte) (p : List Byte) : xorFold cmd n p = xorOf (cmd :: n :: p.take n.toNat) := by
  rw [xorFold, foldl_xor_eq_xorOf, xorOf_cons, xorOf_cons, BitVec.xor_assoc]

@[simp] theorem xorFold_zero (cmd : Byte) (p : List Byte) : xorFold cmd 0 p = cmd := by
  simp [xorFold]

/-- Settles O30: the loop over the indices is the fold over the bytes they read. -/
theorem xorfoldIsTheIndexedLoop : Obligations.XorfoldIsTheIndexedLoop := by
  intro cmd n p q _ hlen
  refine ⟨?_, fun hsame => xorFold_congr cmd hsame.symm⟩
  rw [foldl_xor_map, map_getD_range hlen]
  exact foldl_xor_eq_xorOf _ _

/-- R101 law 5: two equal bytes, at `i` and at the later `j`, cancel. -/
theorem xorOf_eraseIdx_eraseIdx {l : List Byte} {i j : Nat} (hij : i < j) (hj : j < l.length)
    (heq : l[i] = l[j]) : xorOf ((l.eraseIdx j).eraseIdx i) = xorOf l := by
  have hi : i < (l.eraseIdx j).length := by
    rw [List.length_eraseIdx_of_lt hj]
    omega
  rw [xorOf_eraseIdx hi, List.getElem_eraseIdx_of_lt hi hij, xorOf_eraseIdx hj, heq, byte_xor_cancel_left]

/-- Settles O31, each law from that of the XOR of a list. -/
theorem xorfoldLaws : Obligations.XorfoldLaws := by
  refine ⟨?parity, ?order, xorFold_zero, ?cancel⟩
  case parity =>
    intro cmd n p k _
    rw [xorFold_eq_xorOf]
    exact xorOf_getLsbD_iff _ k
  case order =>
    intro cmd n p l hperm
    rw [xorFold_eq_xorOf]
    exact xorOf_perm hperm
  case cancel =>
    intro cmd n p i j hij hjn hjp heq
    have hj : j < (p.take n.toNat).length := by
      rw [List.length_take]
      omega
    have heq' : (p.take n.toNat)[i] = (p.take n.toNat)[j] := by
      simpa [show i < p.length by omega, hjp] using heq
    rw [xorFold, foldl_xor_eq_xorOf, foldl_xor_eq_xorOf, xorOf_eraseIdx_eraseIdx hij hj heq']

end Sys2Proof.Machine
end

section
/-! The codec's two ops (40_checksum.md R103, R105), and what they say of SEND and VALID. -/

namespace Sys2Proof.Machine

theorem clampLen_eq_ofNat (len : Byte) : clampLen len = BitVec.ofNat 8 (min len.toNat 32) := by
  rw [← clampLen_toNat, BitVec.ofNat_toNat, BitVec.setWidth_eq]

theorem clampLen_of_gt {len : Byte} (h : 32 < len.toNat) : clampLen len = 0x20 := if_neg (Nat.not_le.mpr h)

theorem exec_chkcalc (s : State) : exec .chkcalc s =
    .next { s with resChk := xorFold s.txp.cmd (clampLen s.txp.len) s.txp.pay.toList, result := 0x01 } := rfl

/-- Settles O32: each clause is a fact of the clamped fold that `exec_chkcalc` names. -/
theorem chkcalcComputesTheClampedFold : Obligations.ChkcalcComputesTheClampedFold := by
  refine ⟨by decide, fun s => ⟨_, exec_chkcalc s, ?fold, ?empty, ?long, ?chk⟩⟩
  case fold => rw [clampLen_eq_ofNat]
  case empty =>
    intro hlen
    rw [hlen]
    exact xorFold_zero _ _
  case long =>
    intro hlen
    refine ⟨_, exec_chkcalc _, ?_⟩
    rw [clampLen_of_gt hlen]
    rfl
  case chk => exact fun k => ⟨_, exec_chkcalc _, rfl⟩

section
variable {s : State}

theorem chkverify_of_badLength (hlen : 32 < s.txp.len.toNat) : chkverify s = report .verifyBadLength s := if_pos hlen

theorem chkverify_of_match (hlen : s.txp.len.toNat ≤ 32) (hchk : packetFold s.txp = s.txp.chk) :
    chkverify s = report .verifyMatch { s with resChk := packetFold s.txp } :=
  (if_neg (Nat.not_lt.mpr hlen)).trans (if_pos hchk)

theorem chkverify_of_mismatch (hlen : s.txp.len.toNat ≤ 32) (hchk : packetFold s.txp ≠ s.txp.chk) :
    chkverify s = report .verifyMismatch { s with resChk := packetFold s.txp } :=
  (if_neg (Nat.not_lt.mpr hlen)).trans (if_neg hchk)

/-- CHKVERIFY sees of the staging packet its length, its checksum byte and its fold. -/
theorem chkverify_with_txp {p : Packet} (hlen : p.len = s.txp.len) (hchk : p.chk = s.txp.chk)
    (hfold : packetFold p = packetFold s.txp) :
    chkverify { s with txp := p } = { chkverify s with txp := p } := by
  rcases chkverify_cases s with ⟨h, hs⟩ | ⟨h, hm, hs⟩ | ⟨h, hm, hs⟩
  · rw [hs, chkverify_of_badLength (by rwa [hlen])]
    rfl
  · rw [hs, chkverify_of_match (by rwa [hlen]) (by rwa [hfold, hchk]), hfold]
    rfl
  · rw [hs, chkverify_of_mismatch (by rwa [hlen]) (by rwa [hfold, hchk]), hfold]
    rfl

/-- R105's corner case: CHKVERIFY matches exactly on a valid staging packet. -/
theorem chkverify_result_iff_valid (s : State) : (chkverify s).result = 0x02 ↔ valid s.txp = true := by
  rw [valid_iff]
  rcases chkverify_cases s with ⟨hlen, h⟩ | ⟨hlen, hchk, h⟩ | ⟨hlen, hchk, h⟩
  · simp [h, resultByte, hlen]
  · simp [h, resultByte, hlen, hchk]
  · simp [h, resultByte, hchk]

end

/-- A payload byte at or beyond the length is not among those folded (R100). -/
theorem take_set_of_len_le (p : Packet) {i : Nat} (b : Byte) (h : i < 32) (hi : p.len.toNat ≤ i) :
    (p.pay.set i b).toList.take p.len.toNat = p.pay.toList.take p.len.toNat := by
  rw [Vector.toList_set, List.take_set_of_le hi]

theorem packetFold_set_of_len_le (p : Packet) {i : Nat} (b : Byte) (h : i < 32) (hi : p.len.toNat ≤ i) :
    packetFold { p with pay := p.pay.set i b } = packetFold p :=
  xorFold_congr p.cmd (take_set_of_len_le p b h hi)

/-- Settles O33, outcome by outcome. -/
theorem chkverifyAppliesValid : Obligations.ChkverifyAppliesValid := by
  refine ⟨by decide, fun s => ⟨?badLength, ?checked, ?beyond⟩⟩
  case badLength => exact fun hlen => congrArg _ (chkverify_of_badLength hlen)
  case checked =>
    exact fun hlen => ⟨packetFold s.txp, rfl, fun hchk => congrArg _ (chkverify_of_match hlen hchk),
      fun hchk => congrArg _ (chkverify_of_mismatch hlen hchk)⟩
  case beyond =>
    intro i b h hi
    have hsame := chkverify_with_txp (s := s) (p := { s.txp with pay := s.txp.pay.set i b }) rfl rfl
      (packetFold_set_of_len_le s.txp b h hi)
    exact ⟨_, _, rfl, rfl, by rw [hsame], by rw [hsame]⟩

theorem ser_getLast? (p : Packet) : (ser p).getLast? = some p.chk := by
  rw [List.getLast?_eq_getElem?, ser_length, ser_getElem?_chk]

/-- Settles O34: SEND's checksum is that of the staged bytes, and the last byte of the packet it enqueues. -/
theorem codecOpsAgreeWithSendAndValid : Obligations.CodecOpsAgreeWithSendAndValid := by
  refine fun s => ⟨fun hroom => ?_, _, rfl, chkverify_result_iff_valid s⟩
  rcases send_cases s with ⟨hfull, _⟩ | ⟨_, hsend⟩
  · omega
  · refine ⟨_, _, exec_chkcalc s, congrArg Host.Outcome.next hsend, sendPacket_chk s.txp, ?_⟩
    rw [report_txf, enqueue_txf, List.getLast?_append, ser_getLast?, sendPacket_chk]
    rfl

end Sys2Proof.Machine
end

section
/-! Which changes of a valid packet the checksum detects (40_checksum.md R108). -/

namespace Sys2Proof.Machine

/-- What the computed checksum differs from the checksum byte by. -/
def Packet.residue (p : Packet) : Byte := packetFold p ^^^ p.chk

theorem valid_iff_residue (p : Packet) : valid p = true ↔ p.len.toNat ≤ 32 ∧ p.residue = 0 := by
  rw [valid_iff, Packet.residue]
  exact and_congr_right' BitVec.xor_eq_zero_iff.symm

theorem residue_eq_xorOf (p : Packet) :
    p.residue = p.cmd ^^^ (p.len ^^^ (xorOf (p.pay.toList.take p.len.toNat) ^^^ p.chk)) := by
  rw [Packet.residue, packetFold, xorFold_eq_xorOf, xorOf_cons, xorOf_cons, BitVec.xor_assoc, BitVec.xor_assoc]

section
variable {p q : Packet} {d : Byte} (hp : valid p = true)
include hp

/-- From a valid packet, a change that leaves a legal length is undetected exactly when it leaves the residue. -/
theorem valid_iff_of_residue (hlen : q.len.toNat ≤ 32) (hd : q.residue = p.residue ^^^ d) :
    valid q = true ↔ d = 0 := by
  obtain ⟨_, hres⟩ := (valid_iff_residue p).mp hp
  simp [valid_iff_residue, hlen, hd, hres]

theorem detected_of_residue_ne (hlen : q.len = p.len) (hd : q.residue = p.residue ^^^ d) (hne : d ≠ 0) :
    valid q = false := by
  have hle : q.len.toNat ≤ 32 := hlen ▸ ((valid_iff p).mp hp).1
  rw [← Bool.not_eq_true, valid_iff_of_residue hp hle hd]
  exact hne

theorem hidden_of_residue_eq (hlen : q.len = p.len) (hres : q.residue = p.residue) : valid q = true := by
  rw [valid_iff_residue, hlen, hres]
  exact (valid_iff_residue p).mp hp

end

section
variable (p : Packet)

/-- Replacing the command changes the residue by the difference of the two bytes. -/
theorem residue_cmd (c : Byte) : Packet.residue { p with cmd := c } = p.residue ^^^ (p.cmd ^^^ c) := by
  simp only [residue_eq_xorOf, BitVec.xor_assoc, byte_xor_left_comm _ p.cmd, byte_xor_cancel_left]
  ac_rfl

/-- Replacing the checksum changes the residue by the difference of the two bytes. -/
theorem residue_chk (c : Byte) : Packet.residue { p with chk := c } = p.residue ^^^ (p.chk ^^^ c) := by
  simp only [Packet.residue, BitVec.xor_assoc, byte_xor_cancel_left]
  rfl

/-- Replacing a folded payload byte changes the residue by the difference of the two bytes. -/
theorem residue_set {i : Nat} (b : Byte) (h : i < 32) (hi : i < p.len.toNat) :
    Packet.residue { p with pay := p.pay.set i b } = p.residue ^^^ (p.pay[i] ^^^ b) := by
  have hi' : i < (p.pay.toList.take p.len.toNat).length := by simp [h, hi]
  simp only [residue_eq_xorOf, Vector.toList_set, List.take_set, xorOf_set hi', List.getElem_take, Vector.getElem_toList]
  ac_rfl

end

/-- Settles O35: the residue changes by the difference, whichever folded byte it is in. -/
theorem oneChangedFoldedByteIsDetected : Obligations.OneChangedFoldedByteIsDetected := by
  intro p d hp hd
  refine ⟨detected_of_residue_ne hp rfl ?_ hd, detected_of_residue_ne hp rfl ?_ hd,
    fun i h hi => detected_of_residue_ne hp rfl ?_ hd⟩
  · rw [residue_cmd, byte_xor_cancel_left]
  · rw [residue_chk, byte_xor_cancel_left]
  · rw [residue_set p _ h hi, byte_xor_cancel_left]

/-- Settles O36: the bytes folded stay as they were. -/
theorem bytesBeyondTheLengthAreNotCovered : Obligations.BytesBeyondTheLengthAreNotCovered := by
  intro p i b h hi
  refine ⟨?_, take_set_of_len_le p b h hi⟩
  simp only [valid, packetFold_set_of_len_le p b h hi]

/-- At one length, two residues differ by the XOR of the differences of all folded bytes. -/
theorem residue_of_len_eq {p q : Packet} (hlen : q.len = p.len) (hle : p.len.toNat ≤ 32) :
    q.residue = p.residue ^^^
      (List.range p.len.toNat).foldl (fun x i => x ^^^ (p.pay.toList.getD i 0 ^^^ q.pay.toList.getD i 0))
        ((p.cmd ^^^ q.cmd) ^^^ (p.chk ^^^ q.chk)) := by
  rw [foldl_xor_map, xorOf_map_xor, map_getD_range (by simpa using hle), map_getD_range (by simpa using hle),
    residue_eq_xorOf, residue_eq_xorOf, hlen]
  simp only [BitVec.xor_assoc, BitVec.xor_comm, byte_xor_left_comm, byte_xor_cancel_left]

/-- Settles O37: the XOR of the differences is what the residue changes by. -/
theorem sameLengthChangeHidesExactlyWhenDifferencesCancel :
    Obligations.SameLengthChangeHidesExactlyWhenDifferencesCancel := by
  intro p q hp hlen
  have hle : p.len.toNat ≤ 32 := ((valid_iff p).mp hp).1
  exact valid_iff_of_residue hp (by rwa [hlen]) (residue_of_len_eq hlen hle)

/-- Settles O38: the difference of the two bytes enters the residue twice. -/
theorem swappedFoldedBytesAreNotDetected : Obligations.SwappedFoldedBytesAreNotDetected := by
  intro p i j hi hj hp hil hjl
  refine ⟨hidden_of_residue_eq hp rfl ?_, hidden_of_residue_eq hp rfl ?_⟩
  · have hset := residue_set { p with pay := p.pay.set i p.pay[j] } p.pay[i] hj hjl
    have hj' : (p.pay.set i p.pay[j])[j] = p.pay[j] := by
      rw [Vector.getElem_set]
      split <;> rfl
    rw [hset, residue_set p _ hi hil, hj', BitVec.xor_comm p.pay[j], BitVec.xor_assoc, BitVec.xor_self, BitVec.xor_zero]
  · have hset := residue_set { p with cmd := p.pay[i] } p.cmd hi hil
    rw [hset, residue_cmd, BitVec.xor_comm p.cmd, BitVec.xor_assoc, BitVec.xor_self, BitVec.xor_zero]

/-- Changing the length changes the residue by both lengths and the payload bytes between them. -/
theorem residue_len (p : Packet) (l : Byte) : Packet.residue { p with len := l } = p.residue ^^^
    ((p.len ^^^ l) ^^^ xorOf ((p.pay.toList.take (max p.len.toNat l.toNat)).drop (min p.len.toNat l.toNat))) := by
  simp only [← xorOf_take_xor_take, residue_eq_xorOf, BitVec.xor_assoc, BitVec.xor_comm, byte_xor_left_comm,
    byte_xor_cancel_left, BitVec.xor_self, BitVec.zero_xor]

/-- Settles O39: up to 32 by what the residue changes by, above 32 by the length check. -/
theorem lengthChangeHidesExactlyWhenItCancels : Obligations.LengthChangeHidesExactlyWhenItCancels := by
  intro p l hp
  constructor
  · intro hlen
    rw [foldl_xor_eq_xorOf]
    exact valid_iff_of_residue hp hlen (residue_len p l)
  · intro hlen
    rw [← Bool.not_eq_true, valid_iff]
    exact fun hvalid => Nat.not_le.mpr hlen hvalid.1

end Sys2Proof.Machine
end

section
/-! The spacing of heartbeats (41_framer.md R140, R141): HB_LAST is the TIME of the last heartbeat sent, until the next one. -/

namespace Sys2Proof.Machine

/-- The difference of two stamps modulo 2^32 (R140). -/
theorem stamp_sub_toNat (t u : Stamp) : (t.toNat + 2 ^ 32 - u.toNat) % 2 ^ 32 = (t - u).toNat := by
  have hu := u.isLt
  rw [BitVec.toNat_sub]
  omega

section
variable {s t : State}

/-- A HEARTBEAT ends in HB_SENT only when due, and then TIME goes into HB_LAST. -/
theorem ExecEffect.heartbeat_sent (e : ExecEffect .heartbeat s t) (hres : t.result = 0x0A) :
    1000 ≤ (s.time - s.hbLast).toNat ∧ t.hbLast = s.time := by
  cases e with
  | hbNotDue | hbBusy => exact absurd hres (by simp [resultByte])
  | hbSent hdue => exact ⟨hdue, rfl⟩

theorem SendsHeartbeat.due_and_stamped (h : SendsHeartbeat s t) :
    1000 ≤ (s.time - s.hbLast).toNat ∧ t.hbLast = s.time := by
  obtain ⟨hhead, hstep, hres⟩ := h
  obtain ⟨rest, hin⟩ := List.head?_eq_some_iff.mp hhead
  have hdecode : decode 0x8005 = .heartbeat := by decide
  rw [step_of_host hin, hdecode] at hstep
  exact (effect_of_exec hstep).heartbeat_sent hres

/-- Only a reset and a HEARTBEAT that ends in HB_SENT write HB_LAST. -/
theorem step_keeps_hbLast (hstep : step s = .next t) (hreset : s.inputs.head? ≠ some .reset)
    (hquiet : ¬ SendsHeartbeat s t) : t.hbLast = s.hbLast := by
  rcases step_effect hstep with ⟨_, rfl⟩ | ⟨x, rest, hin, e⟩
  · rfl
  · have hhead : s.inputs.head? = some x := List.head?_eq_some_iff.mpr ⟨rest, hin⟩
    by_contra hne
    rcases e.hbLast_writer hne with rfl | ⟨rfl, hres⟩
    · exact hreset hhead
    · exact hquiet ⟨hhead, hstep, hres⟩

theorem QuietRun.keeps_hbLast (h : QuietRun s t) : t.hbLast = s.hbLast := by
  induction h with
  | here => rfl
  | more t u _ hstep hreset hquiet ih => exact (step_keeps_hbLast hstep hreset hquiet).trans ih

end

/-- Settles O52: through the quiet run HB_LAST stays the first heartbeat's TIME, against which the second one is due. -/
theorem successiveHeartbeatsAreAtLeastThePeriodApart : Obligations.SuccessiveHeartbeatsAreAtLeastThePeriodApart := by
  intro s t s' t' hfirst hrun hsecond
  obtain ⟨_, hstamp⟩ := hfirst.due_and_stamped
  obtain ⟨hdue, _⟩ := hsecond.due_and_stamped
  have hlast : s'.hbLast = s.time := hrun.keeps_hbLast.trans hstamp
  rw [stamp_sub_toNat, ← hlast]
  exact hdue

end Sys2Proof.Machine
end

section
/-! The two transport steps at the head of the schedule (41_framer.md R150, R151). -/

namespace Sys2Proof.Machine

section
variable {s : State} {b : Byte} {rest : List Input}

theorem step_of_deliver_room (hin : s.inputs = .deliver b :: rest) (hroom : s.rxf.length < s.cfg.rxDepth) :
    step s = .next { s with rxf := s.rxf ++ [b], inputs := rest } := by
  rw [step, fetchInput_cons hin]
  exact congrArg _ (if_pos hroom)

theorem step_of_deliver_full (hin : s.inputs = .deliver b :: rest) (hfull : s.cfg.rxDepth ≤ s.rxf.length) :
    step s = .next { s with rxOverflow := true, inputs := rest } := by
  rw [step, fetchInput_cons hin]
  exact congrArg _ (if_neg (Nat.not_lt.mpr hfull))

theorem step_of_emit {bs : List Byte} (hin : s.inputs = .emit :: rest) (htxf : s.txf = b :: bs) :
    step s = .next { s with txf := bs, wireOut := s.wireOut ++ [b], inputs := rest } := by
  obtain ⟨t, ht⟩ := step_completes s
  rw [ht]
  cases effect_of_step hin ht with
  | idleWire hempty => exact absurd (htxf.symm.trans hempty) (List.cons_ne_nil b bs)
  | emitted c cs hhead =>
    obtain ⟨rfl, rfl⟩ := List.cons.inj (htxf.symm.trans hhead)
    rfl

end

/-- Settles O53: with room the byte is appended, without it the flag is set. -/
theorem deliverAppendsOrOverflows : Obligations.DeliverAppendsOrOverflows :=
  fun _ _ _ hin => ⟨step_of_deliver_room hin, step_of_deliver_full hin⟩

/-- Settles O54: a FIFO that is not empty gives its head to the wire. -/
theorem emitPutsTheOldestByteOnTheWire : Obligations.EmitPutsTheOldestByteOnTheWire :=
  fun _ _ _ _ hin htxf => step_of_emit hin htxf

end Sys2Proof.Machine
end

section
/-! SEND (41_framer.md R120) and the packets it and HEARTBEAT enqueue (R121). -/

namespace Sys2Proof.Machine

section
variable {s : State}

theorem exec_send_busy (hfull : s.cfg.txDepth - s.txf.length < 35) :
    exec .send s = .next { s with result := 0x09 } :=
  congrArg _ (if_pos ((txBusy_iff s).mpr hfull))

theorem exec_send_done (hroom : 35 ≤ s.cfg.txDepth - s.txf.length) : exec .send s = .next { s with
    txf := s.txf ++ ser (sendPacket s.txp), resChk := (sendPacket s.txp).chk, result := 0x01 } :=
  congrArg _ (if_neg (mt (txBusy_iff s).mp (Nat.not_lt.mpr hroom)))

end

/-- Settles O42: the bytes are SER of the packet SEND builds, field by field. -/
theorem sendEnqueuesTheBuiltPacket : Obligations.SendEnqueuesTheBuiltPacket := by
  refine ⟨by decide, fun s => ⟨exec_send_busy, fun hroom => ?_⟩⟩
  refine ⟨_, _, _, exec_send_done hroom, rfl, ?chk, ser_length _, ser_getElem?_cmd _, ?len, fun i h => ?pay,
    ser_getElem?_chk _⟩
  case chk => rw [sendPacket_chk, clampLen_eq_ofNat]
  case len => rw [ser_getElem?_len, sendPacket_len, clampLen_eq_ofNat]
  case pay => rw [ser_getElem?_pay _ i h, sendPacket_pay_getElem _ i h, clampLen_toNat]

/-- What a request appends to the TX FIFO, if anything, is one valid packet. -/
theorem ExecEffect.txf_eq_or_packet {i : Instr} {s t : State} (e : ExecEffect i s t) :
    t.txf = s.txf ∨ ∃ p, valid p = true ∧ t.txf = s.txf ++ ser p := by
  cases e with
  | sendDone => exact .inr ⟨_, sendPacket_valid s.txp, rfl⟩
  | hbSent => exact .inr ⟨_, heartbeatPacket_valid s.hbCmd s.time, rfl⟩
  | _ => exact .inl rfl

/-- Settles O43: DES gives the enqueued packet back, and VALID is its length and checksum clauses. -/
theorem everyEnqueuedPacketIsValid : Obligations.EveryEnqueuedPacketIsValid := by
  intro i s t _ hexec hne
  rcases (effect_of_exec hexec).txf_eq_or_packet with hsame | ⟨p, hvalid, htxf⟩
  · exact absurd hsame hne
  · obtain ⟨hlen, hfold⟩ := (valid_iff p).mp hvalid
    exact ⟨p, htxf, hlen, hfold.symm, by rwa [des_ser]⟩

end Sys2Proof.Machine
end

section
/-! RECV on a FIFO that starts with one packet's bytes (41_framer.md R130-R135). -/

namespace Sys2Proof.Machine

theorem exec_recv_none {s : State} (hshort : s.rxf.length < 35) : exec .recv s = .next { s with result := 0x05 } :=
  congrArg _ (if_pos hshort)

/-- A FIFO of at least 35 bytes starts with the packet that DES reads from them. -/
theorem rxf_eq_packet_append {f : List Byte} (hlevel : 35 ≤ f.length) : f = ser (des (f.take 35)) ++ f.drop 35 := by
  rw [ser_des (List.length_take_of_le hlevel), List.take_append_drop]

section
variable {s : State} {p : Packet} {rest : List Byte} (hrxf : s.rxf = ser p ++ rest)
include hrxf

/-- RECV's tests on a buffered packet, in order (R130, R185). -/
theorem recv_of_packet : recv s =
    if 32 < p.len.toNat then report .rxBadLength (countDiscard { s with rxf := rest })
    else if packetFold p ≠ p.chk then report .rxBadChecksum (countDiscard { s with rxf := rest })
    else report .rxOk (latch p { s with rxf := rest }) := by
  have hlevel : ¬ level s.rxf < packetSize := by simp [hrxf]
  have htake : popBytes s.rxf packetSize = ser p := by rw [hrxf]; exact List.take_left' (ser_length p)
  have hdrop : popRest s.rxf packetSize = rest := by rw [hrxf]; exact List.drop_left' (ser_length p)
  rw [recv, if_neg hlevel, htake, hdrop, des_ser]
  rfl

theorem exec_recv_badLength (hlen : 32 < p.len.toNat) : exec .recv s =
    .next { s with rxf := rest, discardCount := s.discardCount + 1, result := 0x08 } :=
  congrArg _ ((recv_of_packet hrxf).trans (if_pos hlen))

theorem exec_recv_badChecksum (hlen : p.len.toNat ≤ 32) (hchk : packetFold p ≠ p.chk) : exec .recv s =
    .next { s with rxf := rest, discardCount := s.discardCount + 1, result := 0x07 } :=
  congrArg _ ((recv_of_packet hrxf).trans ((if_neg (Nat.not_lt.mpr hlen)).trans (if_pos hchk)))

theorem exec_recv_ok (hvalid : valid p = true) : exec .recv s =
    .next { s with rxf := rest, rxp := p, rxpValid := true, result := 0x06 } := by
  obtain ⟨hlen, hchk⟩ := (valid_iff p).mp hvalid
  exact congrArg _ ((recv_of_packet hrxf).trans ((if_neg (Nat.not_lt.mpr hlen)).trans (if_neg (not_not.mpr hchk))))

end

/-- Settles O45: the packet is the one DES reads from the 35 oldest bytes. -/
theorem recvConsumesOnePacketOrNothing : Obligations.RecvConsumesOnePacketOrNothing := by
  refine ⟨by decide, fun s => ⟨exec_recv_none, fun hlevel => ?_⟩⟩
  have hrxf := rxf_eq_packet_append hlevel
  exact ⟨des (s.rxf.take 35), ser_des (List.length_take_of_le hlevel), exec_recv_badLength hrxf,
    exec_recv_badChecksum hrxf, fun hlen hchk => exec_recv_ok hrxf ((valid_iff _).mpr ⟨hlen, hchk⟩)⟩

/-- A packet is refused for its length or for its checksum, or is valid (R102). -/
theorem Packet.verdict_cases (p : Packet) :
    32 < p.len.toNat ∨ (p.len.toNat ≤ 32 ∧ packetFold p ≠ p.chk) ∨ valid p = true := by
  rw [valid_iff]
  by_cases hlen : p.len.toNat ≤ 32
  · by_cases hchk : packetFold p = p.chk
    · exact .inr (.inr ⟨hlen, hchk⟩)
    · exact .inr (.inl ⟨hlen, hchk⟩)
  · exact .inl (Nat.lt_of_not_le hlen)

/-- RECV of an invalid packet keeps RXP and does not report RX_OK. -/
theorem exec_recv_of_invalid {s t : State} {p : Packet} {rest : List Byte} (hrxf : s.rxf = ser p ++ rest)
    (hinvalid : ¬ valid p = true) (hexec : exec .recv s = .next t) : t.rxp = s.rxp ∧ t.result ≠ 0x06 := by
  rcases p.verdict_cases with hlen | ⟨hlen, hchk⟩ | hvalid
  · obtain rfl := Host.Outcome.next.inj ((exec_recv_badLength hrxf hlen).symm.trans hexec)
    exact ⟨rfl, by simp⟩
  · obtain rfl := Host.Outcome.next.inj ((exec_recv_badChecksum hrxf hlen hchk).symm.trans hexec)
    exact ⟨rfl, by simp⟩
  · exact absurd hvalid hinvalid

/-- Settles O46: a valid packet is latched, any other is discarded. -/
theorem recvAcceptsExactlyValidBlocks : Obligations.RecvAcceptsExactlyValidBlocks := by
  intro s t p rest hrxf hexec
  by_cases hvalid : valid p = true
  · obtain rfl := Host.Outcome.next.inj ((exec_recv_ok hrxf hvalid).symm.trans hexec)
    simp [hvalid]
  · obtain ⟨hrxp, hresult⟩ := exec_recv_of_invalid hrxf hvalid hexec
    exact ⟨iff_of_false hresult hvalid, by simp [hrxp, hvalid]⟩

/-- R132: 35 bytes are consumed when there are as many, else none. -/
theorem ExecEffect.recv_rxf {s t : State} (e : ExecEffect .recv s t) :
    t.rxf = if 35 ≤ s.rxf.length then s.rxf.drop 35 else s.rxf := by
  cases e with
  | rxNone hshort => exact (if_neg (Nat.not_le.mpr hshort)).symm
  | rxBadLength hlevel | rxBadChecksum hlevel | rxOk hlevel => exact (if_pos hlevel).symm

/-- Settles O47: the outcome is the verdict on the packet of the first 35 bytes, whatever follows them. -/
theorem recvLeavesLaterBytesAlone : Obligations.RecvLeavesLaterBytesAlone := by
  constructor
  · intro s
    obtain ⟨t, hexec, e⟩ := exec_effect .recv s
    exact ⟨t, hexec, e.recv_rxf⟩
  · intro s a b ha
    obtain ⟨p, rfl⟩ : ∃ p, a = ser p := ⟨des a, (ser_des ha).symm⟩
    have halone : ser p = ser p ++ [] := (List.append_nil _).symm
    rcases p.verdict_cases with hlen | ⟨hlen, hchk⟩ | hvalid
    · exact ⟨{ s with discardCount := s.discardCount + 1, result := 0x08 }, exec_recv_badLength halone hlen,
        exec_recv_badLength rfl hlen⟩
    · exact ⟨{ s with discardCount := s.discardCount + 1, result := 0x07 }, exec_recv_badChecksum halone hlen hchk,
        exec_recv_badChecksum rfl hlen hchk⟩
    · exact ⟨{ s with rxp := p, rxpValid := true, result := 0x06 }, exec_recv_ok halone hvalid,
        exec_recv_ok rfl hvalid⟩

/-- Settles O48, outcome by outcome. -/
theorem discardAppliesNothingAndAcceptKeepsRawBytes : Obligations.DiscardAppliesNothingAndAcceptKeepsRawBytes := by
  intro s t hexec
  cases effect_of_exec hexec with
  | rxNone => simp [resultByte]
  | rxBadLength | rxBadChecksum =>
    refine ⟨fun _ => ⟨rfl, BitVec.toNat_add _ _⟩, fun h => absurd h ?_⟩
    simp [resultByte]
  | rxOk hlevel =>
    refine ⟨fun h => absurd h ?_, fun _ i h => ?_⟩
    · simp [resultByte]
    · have hbyte := wireByte_eq_des_pay (List.length_take_of_le hlevel) i h
      rwa [List.getElem?_take_of_lt (by omega)] at hbyte

/-- Settles O49: the packet SEND builds is valid. -/
theorem sentPacketIsReceived : Obligations.SentPacketIsReceived := by
  intro a a' hexec hdone
  cases effect_of_exec hexec with
  | sendBusy => exact absurd hdone (by simp [resultByte])
  | sendDone => exact ⟨sendPacket a.txp, rfl, fun b rest hrxf => exec_recv_ok hrxf (sendPacket_valid a.txp)⟩

end Sys2Proof.Machine
end

section
/-! Runs of transport steps, and the loopback of one packet through both streams (41_framer.md R120, R135, R150, R151). -/

namespace Sys2Proof.Machine

theorem run_add {m : Nat} {s t : State} (n : Nat) (h : Host.Core.run core m s = .next t) :
    Host.Core.run core (m + n) s = Host.Core.run core n t := by
  induction m generalizing s with
  | zero =>
    obtain rfl := Host.Outcome.next.inj h
    rw [Nat.zero_add]
  | succ m ih =>
    obtain ⟨u, hstep, hrest⟩ := step_run_of_run_succ h
    rw [Nat.succ_add, run_succ _ hstep, ih hrest]

section
variable {s : State} {rest : List Input}

theorem step_of_send (hin : s.inputs = .host 0x8003 :: rest) (hroom : 35 ≤ s.cfg.txDepth - s.txf.length) :
    step s = .next { s with
      txf := s.txf ++ ser (sendPacket s.txp), resChk := (sendPacket s.txp).chk, result := 0x01, inputs := rest } := by
  have hdecode : decode 0x8003 = .send := by decide
  rw [step_of_host hin, hdecode]
  exact exec_send_done (s := { s with inputs := rest }) hroom

theorem step_of_recv_ok {p : Packet} {more : List Byte} (hin : s.inputs = .host 0x8004 :: rest)
    (hrxf : s.rxf = ser p ++ more) (hvalid : valid p = true) :
    step s = .next { s with rxf := more, rxp := p, rxpValid := true, result := 0x06, inputs := rest } := by
  have hdecode : decode 0x8004 = .recv := by decide
  rw [step_of_host hin, hdecode]
  exact exec_recv_ok (s := { s with inputs := rest }) hrxf hvalid

/-- TXT steps in a row put as many of the oldest bytes on the wire, in order. -/
theorem run_emits {n : Nat} {bs more : List Byte} (hin : s.inputs = List.replicate n .emit ++ rest)
    (htxf : s.txf = bs ++ more) (hn : bs.length = n) :
    Host.Core.run core n s = .next { s with txf := more, wireOut := s.wireOut ++ bs, inputs := rest } := by
  subst hn
  induction bs generalizing s with
  | nil =>
    have hrest : rest = s.inputs := hin.symm
    have hmore : more = s.txf := htxf.symm
    simp [hrest, hmore]
  | cons b bs ih =>
    rw [List.length_cons, run_succ _ (step_of_emit hin htxf), ih rfl rfl]
    simp

/-- Deliveries in a row append their bytes while there is room for all of them. -/
theorem run_delivers {n : Nat} {bs : List Byte} (hin : s.inputs = bs.map .deliver ++ rest)
    (hroom : s.rxf.length + n ≤ s.cfg.rxDepth) (hn : bs.length = n) :
    Host.Core.run core n s = .next { s with rxf := s.rxf ++ bs, inputs := rest } := by
  subst hn
  induction bs generalizing s with
  | nil =>
    have hrest : rest = s.inputs := hin.symm
    simp [hrest]
  | cons b bs ih =>
    rw [List.length_cons] at hroom
    have hroom' : (s.rxf ++ [b]).length + bs.length ≤ s.cfg.rxDepth := by
      rw [List.length_append, List.length_singleton]
      omega
    rw [List.length_cons, run_succ _ (step_of_deliver_room hin (by omega)), ih rfl hroom']
    simp

/-- A sender with an empty TX FIFO: SEND and 35 TXT steps put the packet it builds on the wire. -/
theorem run_send_emits (htxf : s.txf = []) (hin : s.inputs = .host 0x8003 :: (List.replicate 35 .emit ++ rest)) :
    Host.Core.run core 36 s = .next { s with
      txf := [], resChk := (sendPacket s.txp).chk, result := 0x01, wireOut := s.wireOut ++ ser (sendPacket s.txp),
      inputs := rest } := by
  have hroom : 35 ≤ s.cfg.txDepth - s.txf.length := by
    rw [htxf]
    exact s.cfg.txDepth_bounds.1
  rw [run_succ 35 (step_of_send hin hroom),
    run_emits (bs := ser (sendPacket s.txp)) (more := []) rfl (by simp [htxf]) (ser_length _)]

/-- A receiver with an empty RX FIFO: the 35 bytes of a valid packet and RECV latch it. -/
theorem run_delivers_recv {p : Packet} (hrxf : s.rxf = []) (hvalid : valid p = true)
    (hin : s.inputs = (ser p).map .deliver ++ .host 0x8004 :: rest) :
    Host.Core.run core 36 s = .next { s with
      rxf := [], rxp := p, rxpValid := true, result := 0x06, inputs := rest } := by
  have hroom : s.rxf.length + 35 ≤ s.cfg.rxDepth := by
    rw [hrxf]
    exact s.cfg.rxDepth_bounds.1
  rw [run_add 1 (run_delivers hin hroom (ser_length p)),
    run_succ 0 (step_of_recv_ok (more := []) rfl (by simp [hrxf]) hvalid), run_zero]

end

/-- Settles O50: what is latched is the packet SEND built of the staged one. -/
theorem loopbackThroughBothStreams : Obligations.LoopbackThroughBothStreams := by
  intro a b rest restB htxf hin hrxf
  refine ⟨_, ser (sendPacket a.txp), run_send_emits htxf hin, rfl, ser_length _, rfl, rfl, fun hinB => ?_⟩
  refine ⟨_, run_delivers_recv hrxf (sendPacket_valid a.txp) hinB, rfl, rfl, clampLen_toNat _, fun i h => ?_,
    rfl, rfl, rfl, rfl⟩
  rw [sendPacket_pay_getElem _ i h, clampLen_toNat]

end Sys2Proof.Machine
end

section
/-! HEARTBEAT (41_framer.md R140, R87): its outcomes with their frames, and the bytes of its packet. -/

namespace Sys2Proof.Machine

/-- HB_SENT's record updates as one, for any packet: with the packet opaque the comparison is cheap. -/
theorem report_hbSent (p : Packet) (u : Stamp) (s : State) : report .hbSent { enqueue p s with hbLast := u } =
    { s with txf := s.txf ++ ser p, hbLast := u, resChk := p.chk, result := 0x0A } := rfl

section
variable {s : State}

theorem exec_heartbeat_notDue (hearly : (s.time - s.hbLast).toNat < 1000) :
    exec .heartbeat s = .next { s with result := 0x0B } :=
  congrArg _ (if_pos hearly)

theorem exec_heartbeat_busy (hdue : 1000 ≤ (s.time - s.hbLast).toNat) (hfull : s.cfg.txDepth - s.txf.length < 35) :
    exec .heartbeat s = .next { s with result := 0x09 } :=
  congrArg _ ((if_neg (Nat.not_lt.mpr hdue)).trans (if_pos ((txBusy_iff s).mpr hfull)))

theorem exec_heartbeat_sent (hdue : 1000 ≤ (s.time - s.hbLast).toNat) (hroom : 35 ≤ s.cfg.txDepth - s.txf.length) :
    exec .heartbeat s = .next { s with
      txf := s.txf ++ ser (heartbeatPacket s.hbCmd s.time), hbLast := s.time,
      resChk := (heartbeatPacket s.hbCmd s.time).chk, result := 0x0A } :=
  congrArg _ ((if_neg (Nat.not_lt.mpr hdue)).trans
    ((if_neg (mt (txBusy_iff s).mp (Nat.not_lt.mpr hroom))).trans (report_hbSent _ _ s)))

end

section
variable (c : Byte) (t : Stamp)

/-- R87: the timestamp's bytes, the most significant first. -/
theorem heartbeatPacket_stamp_byte {k : Nat} (hk : k < 4) :
    (ser (heartbeatPacket c t))[2 + k]? = some (BitVec.ofNat 8 (t.toNat / 2 ^ (8 * (3 - k)))) := by
  have hbyte : (stampBytesBE t).getD k 0 = stampByte t (3 - k) := by
    interval_cases k <;> rfl
  rw [ser_getElem?_pay _ k (by omega), heartbeatPacket_pay_getElem _ _ k (by omega), hbyte]
  exact congrArg some (BitVec.eq_of_toNat_eq (stampByte_toNat t (3 - k)))

/-- R87: 0x00 beyond the timestamp. -/
theorem heartbeatPacket_fill_byte {i : Nat} (hi : 4 ≤ i) (h : i < 32) :
    (ser (heartbeatPacket c t))[2 + i]? = some 0x00 := by
  rw [ser_getElem?_pay _ i h, heartbeatPacket_pay_getElem _ _ i h, List.getD_eq_default _ _ hi]

/-- The checksum is the fold of the four payload bytes on the wire. -/
theorem heartbeatPacket_chk :
    (heartbeatPacket c t).chk = xorFold c 0x04 (((ser (heartbeatPacket c t)).drop 2).take 4) := by
  rw [← heartbeatPacket_fold]
  have hdata : (ser (heartbeatPacket c t)).drop 2 =
      (heartbeatPacket c t).pay.toList ++ [(heartbeatPacket c t).chk] := rfl
  have hlen : (heartbeatPacket c t).len.toNat = 4 := rfl
  apply xorFold_congr
  rw [hdata, hlen, List.take_take, Nat.min_self, List.take_append_of_le_length (by simp)]

end

/-- Settles O51: the due test, the space test, and SER of the heartbeat packet byte by byte. -/
theorem heartbeatIsRateLimitedAndCarriesTheTime : Obligations.HeartbeatIsRateLimitedAndCarriesTheTime := by
  refine ⟨by decide, fun s => ?_⟩
  rw [stamp_sub_toNat]
  refine ⟨exec_heartbeat_notDue, fun hdue => ⟨exec_heartbeat_busy hdue, fun hroom => ?_⟩⟩
  exact ⟨_, _, exec_heartbeat_sent hdue hroom, ser_length _, ser_getElem?_cmd _, ser_getElem?_len _,
    fun _ => heartbeatPacket_stamp_byte _ _, fun _ => heartbeatPacket_fill_byte _ _, ser_getElem?_chk _,
    heartbeatPacket_chk _ _⟩

end Sys2Proof.Machine
end

section
/-! The register map read backwards (10_state.md R38): the register at a stated offset, the bits of STATUS (R29), and the
offsets whose register takes no write. -/

namespace Sys2Proof.Machine

/-- The map has every register, at the offset R38 gives it. -/
theorem regAt_ofNat_offset (r : Reg) : regAt (BitVec.ofNat 7 r.offset) = some r := by
  cases r with
  | time k | hbLast k => revert k; decide
  | txpData i | rxpPayload i => revert i; decide
  | _ => rfl

theorem regAt_eq_some_iff {off : RegOffset} {r : Reg} : regAt off = some r ↔ off.toNat = r.offset := by
  refine ⟨offset_of_regAt, fun h => ?_⟩
  have hoff : BitVec.ofNat 7 r.offset = off := by rw [← h, BitVec.ofNat_toNat, BitVec.setWidth_eq]
  exact hoff ▸ regAt_ofNat_offset r

theorem regRead_of_offset {off : RegOffset} (r : Reg) (h : off.toNat = r.offset) (s : State) :
    regRead off s = readReg r s :=
  regRead_of_regAt (regAt_eq_some_iff.mpr h) s

theorem regWrite_of_offset {off : RegOffset} (r : Reg) (h : off.toNat = r.offset) (v : Byte) (s : State) :
    regWrite off v s = writeReg r v s :=
  regWrite_of_regAt (regAt_eq_some_iff.mpr h) v s

/-- R29's layout: each flag of STATUS in a bit of its own, bits 7:5 zero. -/
theorem statusByte_bits (s : State) :
    (statusByte s).getLsbD 0 = rxAvail s ∧ (statusByte s).getLsbD 1 = txSpace s ∧ (statusByte s).getLsbD 2 = txEmpty s ∧
    (statusByte s).getLsbD 3 = s.rxOverflow ∧ (statusByte s).getLsbD 4 = s.rxpValid ∧
    (statusByte s).getLsbD 5 = false ∧ (statusByte s).getLsbD 6 = false ∧ (statusByte s).getLsbD 7 = false := by
  unfold statusByte
  generalize rxAvail s = a, txSpace s = b, txEmpty s = c, s.rxOverflow = d, s.rxpValid = e
  revert a b c d e
  decide

theorem writableOffset_of_offset {off : RegOffset} {r : Reg} (h : off.toNat = r.offset) (hw : r.isWritable = true) :
    WritableOffset off := by
  cases r with
  | txpCmd | txpLen | txpChk | hbCmd => exact .inl (by simp [h, Reg.offset])
  | time k => exact .inl (by simp only [h, Reg.offset]; omega)
  | txpData i => exact .inr (by simp only [h, Reg.offset]; omega)
  | _ => simp [Reg.isWritable] at hw

/-- The last line of R161: a register that is not RW ignores the byte. -/
theorem writeReg_of_not_writable {r : Reg} (hw : r.isWritable = false) (v : Byte) (s : State) : writeReg r v s = s := by
  cases r with
  | txpCmd | txpLen | txpChk | hbCmd | time | txpData => simp [Reg.isWritable] at hw
  | _ => rfl

theorem regWrite_of_not_writableOffset {off : RegOffset} (hoff : ¬ WritableOffset off) (v : Byte) (s : State) :
    regWrite off v s = s := by
  cases hr : regAt off with
  | none => exact regWrite_of_reserved ((regAt_eq_none_iff off).mp hr) v s
  | some r =>
    have hw : r.isWritable = false :=
      Bool.eq_false_iff.mpr fun hw => hoff (writableOffset_of_offset (offset_of_regAt hr) hw)
    exact (regWrite_of_regAt hr v s).trans (writeReg_of_not_writable hw v s)

end Sys2Proof.Machine
end

section
/-! Host register access and the control ops (42_host_access.md R160-R163, R167). -/

namespace Sys2Proof.Machine

/-- Settles O18: each clause names the register at its offset, whose value is `readReg`'s. -/
theorem regReadReturnsTheMappedRegister : Obligations.RegReadReturnsTheMappedRegister := by
  intro off s
  have read (r : Reg) (h : off.toNat = r.offset) : regRead off s = readReg r s := regRead_of_offset r h s
  refine ⟨regRead off s, exec_regRead off s, read .opcode, fun hstatus => ?_, read .result, read .resChk, read .txpCmd,
    read .txpLen, read .txpChk, read .hbCmd, fun k hk htime => ?_, fun k hk hlast => ?_, fun hhi => ?_, fun hlo => ?_,
    fun hrx hfit => ?_, fun htx hfit => ?_, read .rxpCmd, read .rxpLen, read .rxpChk, fun i h => read (.txpData ⟨i, h⟩),
    fun i h => read (.rxpPayload ⟨i, h⟩), fun hreserved => regRead_of_reserved hreserved s⟩
  · obtain ⟨h0, h1, h2, hconst⟩ := statusByte_bits s
    have hvalue : regRead off s = statusByte s := read .status hstatus
    rw [hvalue, h0, h1, h2]
    exact ⟨rxAvail_iff s, txSpace_iff s, txEmpty_iff s, hconst⟩
  · rw [read (.time ⟨3 - k, by omega⟩) (by simp only [Reg.offset]; omega)]
    exact stampByte_toNat s.time (3 - k)
  · rw [read (.hbLast ⟨3 - k, by omega⟩) (by simp only [Reg.offset]; omega)]
    exact stampByte_toNat s.hbLast (3 - k)
  · have hcount := s.discardCount.isLt
    rw [read .discardHi hhi, readReg, BitVec.extractLsb'_toNat, Nat.shiftRight_eq_div_pow]
    exact Nat.mod_eq_of_lt (by omega)
  · rw [read .discardLo hlo]
    simp [readReg]
  · rw [read .rxLevel hrx]
    exact level_toNat (hfit.trans s.cfg.rxDepth_bounds.2)
  · rw [read .txLevel htx]
    exact level_toNat (hfit.trans s.cfg.txDepth_bounds.2)

/-- Settles O21: each clause names the register at its offset, and `writeReg` stores the byte there. -/
theorem regWriteStoresTheMappedRegister : Obligations.RegWriteStoresTheMappedRegister := by
  intro off v s _
  have write (r : Reg) (h : off.toNat = r.offset) : regWrite off v s = writeReg r v s := regWrite_of_offset r h v s
  refine ⟨regWrite off v s, exec_regWrite off v s, write .txpCmd, write .txpLen, write .txpChk, write .hbCmd,
    fun k hk htime => ?_, fun i h => write (.txpData ⟨i, h⟩), fun hoff => regWrite_of_not_writableOffset hoff v s⟩
  rw [write (.time ⟨3 - k, by omega⟩) (by simp only [Reg.offset]; omega)]
  exact ⟨rfl, fun b hb => setStampByte_getLsbD s.time (3 - k) v hb⟩

/-- Settles O25: the word 0x8000 is NOP's encoding. -/
theorem nopChangesNothing : Obligations.NopChangesNothing := by
  have hdecode : decode 0x8000 = .nop := decode_encode (i := .nop) rfl
  refine ⟨fun s => rfl, fun s rest hin => ?_⟩
  rw [step_of_host hin, hdecode]
  rfl

/-- Settles O26: the word 0x8006 is CLRFLAGS's encoding, and DONE is code 0x01. -/
theorem clrflagsClearsFlagAndCounterOnly : Obligations.ClrflagsClearsFlagAndCounterOnly :=
  ⟨decode_encode (i := .clrflags) rfl, fun _ => rfl⟩

/-- Settles O27: 0x8000 plus the code is the write of the code to OPCODE, and ILLEGAL_OP is code 0x0C. -/
theorem reservedCodeReportsIllegalOp : Obligations.ReservedCodeReportsIllegalOp := by
  intro code s hcode
  have hword : BitVec.ofNat 16 (0x8000 + code.toNat) = wrWord 0x00 code := rfl
  rw [hword, decode_wrWord_opcode, decodeOp_of_reserved hcode]
  exact ⟨rfl, rfl⟩

end Sys2Proof.Machine
end

section
/-! No step waits, faults or refuses (60_exceptions.md R180, R194). -/

namespace Sys2Proof.Machine

/-- A TXT step with an empty TX FIFO (log 3): the wire is idle and only the schedule moves on. -/
theorem step_of_emit_empty {s : State} {rest : List Input} (hin : s.inputs = .emit :: rest) (htxf : s.txf = []) :
    step s = .next { s with inputs := rest } := by
  obtain ⟨t, ht⟩ := step_completes s
  rw [ht]
  cases effect_of_step hin ht with
  | idleWire => rfl
  | emitted b bs hhead => exact absurd (hhead.symm.trans htxf) (List.cons_ne_nil b bs)

theorem exec_completes (i : Instr) (s : State) : Continues (exec i s) :=
  (exec_effect i s).imp fun _ ⟨hnext, _⟩ => hnext

/-- Settles O6: the two idle cases of a step, an empty schedule and an idle wire. -/
theorem idleStepHoldsTheState : Obligations.IdleStepHoldsTheState :=
  fun _ => ⟨step_of_nil, fun _ hin htxf => step_of_emit_empty hin htxf⟩

/-- Settles O7: each instruction's effect is a next state, and so is what each scheduled input does. -/
theorem everyRequestAndStepCompletes : Obligations.EveryRequestAndStepCompletes :=
  ⟨exec_completes, step_completes⟩

end Sys2Proof.Machine
end

section
/-! The reset step (70_reset_and_hazards.md R200). -/

namespace Sys2Proof.Machine

theorem step_of_reset {s : State} {rest : List Input} (hin : s.inputs = .reset :: rest) :
    step s = .next (resetStep { s with inputs := rest }) := by
  rw [step, fetchInput_cons hin]

/-- Settles O3: the state reached is `resetStep`'s, field by field, and `Packet.zero` byte by byte. -/
theorem resetStepRestoresEveryElement : Obligations.ResetStepRestoresEveryElement := by
  intro s rest hin
  exact ⟨_, step_of_reset hin, rfl, rfl, ⟨rfl, rfl, rfl⟩, ⟨rfl, rfl, rfl⟩,
    fun i h => ⟨Packet.zero_pay_getElem i h, Packet.zero_pay_getElem i h⟩,
    rfl, rfl, rfl, rfl, rfl, rfl, rfl, rfl, rfl, rfl, rfl, rfl⟩

end Sys2Proof.Machine
end

section
/-! The staging packet after SEND (70_reset_and_hazards.md R213, 20_memory.md R64). -/

namespace Sys2Proof.Machine

/-- R64: the queued bytes are a copy, which no register write reaches. -/
theorem regWrite_txf (off : RegOffset) (v : Byte) (s : State) : (regWrite off v s).txf = s.txf := by
  obtain ⟨p, c, u, h⟩ := regWrite_frame off v s
  rw [h]

/-- Settles O44: both SENDs build their packet from the same TXP. -/
theorem sendSnapshotsTheStagingPacket : Obligations.SendSnapshotsTheStagingPacket := by
  intro s hroom
  refine ⟨_, ser (sendPacket s.txp), exec_send_done hroom, ser_length _, rfl, rfl, fun off v => ?write, fun hroom' => ?again⟩
  case write => exact ⟨_, exec_regWrite off v _, regWrite_txf off v _⟩
  case again => exact ⟨_, exec_send_done hroom', rfl⟩

end Sys2Proof.Machine
end

section
/-! Check-then-act (70_reset_and_hazards.md R214): the STATUS bits as levels, and which steps can take bytes from the RX FIFO or
room from the TX FIFO. -/

namespace Sys2Proof.Machine

theorem statusByte_rxAvail_iff (s : State) : (statusByte s).getLsbD 0 = true ↔ 35 ≤ s.rxf.length := by
  rw [(statusByte_bits s).1, rxAvail_iff]

theorem statusByte_txSpace_iff (s : State) : (statusByte s).getLsbD 1 = true ↔ 35 ≤ s.cfg.txDepth - s.txf.length := by
  rw [(statusByte_bits s).2.1, txSpace_iff]

theorem statusByte_txEmpty_iff (s : State) : (statusByte s).getLsbD 2 = true ↔ s.txf = [] := by
  rw [(statusByte_bits s).2.2.1, txEmpty_iff]

section
variable {x : Input} {s t : State}

/-- Only RECV and reset take bytes from the RX FIFO. -/
theorem StepEffect.rxf_length_le (e : StepEffect x s t) (hrecv : x ≠ .host 0x8004) (hreset : x ≠ .reset) :
    s.rxf.length ≤ t.rxf.length := by
  by_cases hsame : t.rxf = s.rxf
  · rw [hsame]
  · rcases e.rxf_writer hsame with hx | ⟨b, _, hrxf⟩ | ⟨hx, _⟩
    · exact absurd hx hreset
    · simp [hrxf]
    · exact absurd hx hrecv

/-- Only SEND and HEARTBEAT put bytes into the TX FIFO. -/
theorem StepEffect.txf_length_le (e : StepEffect x s t) (hsend : x ≠ .host 0x8003) (hhb : x ≠ .host 0x8005) :
    t.txf.length ≤ s.txf.length := by
  by_cases hsame : t.txf = s.txf
  · rw [hsame]
  · rcases e.txf_writer hsame with rfl | ⟨_, htxf⟩ | ⟨hx | hx, _⟩
    · cases e with
      | reset => exact Nat.zero_le _
    · simp [htxf]
    · exact absurd hx hsend
    · exact absurd hx hhb

theorem StepEffect.keeps_rxAvail (e : StepEffect x s t) (havail : 35 ≤ s.rxf.length) (hrecv : x ≠ .host 0x8004)
    (hreset : x ≠ .reset) : 35 ≤ t.rxf.length :=
  havail.trans (e.rxf_length_le hrecv hreset)

theorem StepEffect.keeps_txSpace (e : StepEffect x s t) (hspace : 35 ≤ s.cfg.txDepth - s.txf.length)
    (hsend : x ≠ .host 0x8003) (hhb : x ≠ .host 0x8005) : 35 ≤ t.cfg.txDepth - t.txf.length := by
  have hlevel := e.txf_length_le hsend hhb
  rw [e.keeps_schedule_and_parameters.2]
  omega

theorem StepEffect.emit_txf (e : StepEffect .emit s t) : t.txf = s.txf.drop 1 := by
  cases e with
  | idleWire hempty => rw [hempty]; rfl
  | emitted b rest hhead => rw [hhead]; rfl

theorem ExecEffect.recv_ne_rxNone (e : ExecEffect .recv s t) (havail : 35 ≤ s.rxf.length) : t.result ≠ 0x05 := by
  cases e with
  | rxNone hshort => exact absurd havail (Nat.not_le.mpr hshort)
  | rxBadLength | rxBadChecksum | rxOk => simp [resultByte]

theorem ExecEffect.send_done (e : ExecEffect .send s t) (hspace : 35 ≤ s.cfg.txDepth - s.txf.length) :
    t.result = 0x01 := by
  cases e with
  | sendBusy hfull => exact absurd hspace (Nat.not_le.mpr hfull)
  | sendDone => rfl

end

/-- Settles O58: the levels behind the two bits move only in the bits' favour until their consumers step. -/
theorem checkThenActIsFreeOfRaces : Obligations.CheckThenActIsFreeOfRaces := by
  unfold Obligations.CheckThenActIsFreeOfRaces
  simp only [statusByte_rxAvail_iff, statusByte_txSpace_iff, statusByte_txEmpty_iff, ← Bool.not_eq_true]
  refine ⟨fun s t x rest hin hstep => ?_, fun s t havail hexec => (effect_of_exec hexec).recv_ne_rxNone havail,
    fun s t hspace hexec => (effect_of_exec hexec).send_done hspace⟩
  have e := effect_of_step hin hstep
  refine ⟨e.keeps_rxAvail, e.keeps_txSpace, ?_⟩
  rintro rfl hone
  have htxf : t.txf = s.txf.drop 1 := e.emit_txf
  exact ⟨List.ne_nil_of_length_eq_add_one hone, htxf.trans (List.drop_eq_nil_of_le hone.le)⟩

end Sys2Proof.Machine
end
